-- ==== Sys2Proof/Word.lean ====
section
/-! DEFINITION. The word types of EMSD: 32-bit register words, pixel bytes, colours (R11, R16, R42). -/

namespace Sys2Proof

/-- A register of EMSD, and a pixel-memory address: 32 bits (R11). -/
abbrev Word := BitVec 32

/-- A byte of pixel memory (R62). -/
abbrev Byte := BitVec 8

/-- A module code, `CODEk.VAL`: 7 bits (R42). -/
abbrev Code := BitVec 7

/-- The colour of a pixel or of a module: `false` is 0, dark; `true` is 1, light (R16). -/
abbrev Colour := Bool

/-- Dark is 0 (R16). -/
abbrev dark : Colour := false

/-- Light is 1 (R16). -/
abbrev light : Colour := true

end Sys2Proof
end

