-- ==== Sys2Proof/Config.lean ====
section
/-! DEFINITION. What an implementation or a platform fixes, and the free values (R9, R15, R66, U1 to U6).
Every constant here is opaque: nothing can be proved of its value. -/

namespace Sys2Proof.Config

/-- `SCAN_MAX - 1`, 20 bits, so that `1 <= SCAN_MAX <= 2^20` (R9, D3: OPEN parameter).
DESIGN CHOICE, safe: assumption 9. -/
opaque scanMaxPred : BitVec 20

/-- `EMSD_BASE`, the base of the register window in the host's address space (R66, D7: OPEN parameter).
DESIGN CHOICE, safe: assumption 10. -/
opaque emsdBase : Nat

/-- The ranges (first address, length) of pixel memory that answer a read with an error response
(R62, U6: a platform predicate on addresses). DESIGN CHOICE, safe: assumption 8. -/
opaque pixelErrors : List (Nat × Nat)

/-- The value of the n-th draw when it is one bit: `draw_bit()` (R15). DESIGN CHOICE, safe: assumption 5. -/
opaque freeBit : Nat → Bool

/-- The value of the n-th draw when it is a pixel byte (R62, R74 (d)). -/
opaque freeByte : Nat → Byte

/-- The value of the n-th draw when it is a register word (R200 (c)). -/
opaque freeWord : Nat → Word

end Sys2Proof.Config
end

