-- ==== Sys2Proof/Machine/Constants.lean ====
section
/-! DEFINITION. The constants of the EAN-8 decode and of the register map (R10, R25, R48, R125, R135 to R139). -/

namespace Sys2Proof.Machine

/-- `ID`: "E8" and command-set revision 1 (R25). -/
def idWord : Word := 0x45380001

/-- The start-guard value, `010` (R135). -/
def startGuard : Code := 2

/-- The divider value, 21, `10101` (R136; 90_conflicts.md C1). PRESUMED by the spec itself (K2), unsafe:
assumption 18. -/
def dividerGuard : Code := 21

/-- The stop-guard value, `010` (R137). -/
def stopGuard : Code := 2

/-- The two digit tables as one constant, LEFT first, entry d the code of digit d (R139).
PRESUMED by the spec itself (K1), unsafe: assumption 18. -/
def digitTables : List Code × List Code :=
  ([114, 102, 108, 66, 92, 78, 80, 68, 72, 116], [13, 25, 19, 61, 35, 49, 47, 59, 55, 11])

/-- The eleven segments, in order: start, 4 left digits, divider, 4 right digits, stop (R42, R125). -/
def segments : List (Fin 11) := [0, 1, 2, 3, 4, 5, 6, 7, 8, 9, 10]

/-- `SEGLEN[k]`, the module count of segment k (R125). -/
def segLen (k : Fin 11) : Nat :=
  match k.val with
  | 0 => 3
  | 5 => 5
  | 10 => 3
  | _ => 7

/-- `DIGITS` when it holds no digits (R40). -/
def noDigits : Word := 0xFFFFFFFF

end Sys2Proof.Machine
end

