-- ==== Sys2Proof/Machine/Sparse.lean ====
section
/-! DEFINITION. Sparse storage: (key, value) pairs in one canonical form, keys strictly rising.
Pixel memory (R60 (2)) and the written cells of the scanline buffer (R43, R191) are held so.
A key that is not listed holds no stated value, so no listed entry is redundant. -/

namespace Sys2Proof.Machine

/-- Pairs of a key and a value; canonical when the keys rise strictly (`sparseWf`). -/
abbrev Sparse (α : Type) := List (Nat × α)

/-- The value listed at key `k`, if any. -/
def sparseGet {α : Type} : Sparse α → Nat → Option α
  | [], _ => none
  | (k', v) :: rest, k => if k = k' then some v else sparseGet rest k

/-- List `v` at key `k`, in key order, replacing what was listed there. -/
def sparseSet {α : Type} : Sparse α → Nat → α → Sparse α
  | [], k, v => [(k, v)]
  | (k', v') :: rest, k, v =>
    if k < k' then (k, v) :: (k', v') :: rest
    else if k = k' then (k, v) :: rest
    else (k', v') :: sparseSet rest k v

/-- Every key lies at or above `lo` and below `hi`, and the keys rise strictly. -/
def sparseWfFrom {α : Type} (lo hi : Nat) : Sparse α → Bool
  | [] => true
  | (k, _) :: rest => decide (lo ≤ k) && decide (k < hi) && sparseWfFrom (k + 1) hi rest

/-- The canonical form, with every key below `hi`. -/
def sparseWf {α : Type} (hi : Nat) (m : Sparse α) : Bool := sparseWfFrom 0 hi m

/-- Pixel memory: the bytes written, by address (R60 (2)). -/
abbrev Memory := Sparse Byte

/-- The canonical form of pixel memory: addresses strictly rising, below 2^32 (R60 (2)). -/
def Memory.wf (m : Memory) : Bool := sparseWf (2 ^ 32) m

/-- The scanline cells written since the last reset input, by index (R43, R191). -/
abbrev Scanline := Sparse Colour

/-- The canonical form of the scanline buffer: indices strictly rising, below SCAN_MAX (R43). -/
def Scanline.wf (scanMax : Nat) (sl : Scanline) : Bool := sparseWf scanMax sl

end Sys2Proof.Machine
end

