-- ==== Sys2Proof/Machine/Datapath.lean ====
section
/-! DEFINITION. The registers, the scanline buffer and the memory port of EMSD: all a command reads and
writes.  The sequencer state stands beside it, in Machine/State.lean. -/

namespace Sys2Proof.Machine

/-- The stored fields of `STATUS` (R28).  `BUSY` is not stored: it is read from the sequencer state (R22).
The same record names a set of `STATUS` fields (R45, R200). -/
structure Status where
  done   : Bool := false
  oob    : Bool := false
  nobar  : Bool := false
  clsbit : Bool := false
  illcmd : Bool := false
  cfgerr : Bool := false
  buserr : Bool := false
  busywr : Bool := false
deriving DecidableEq, Repr

/-- `RESULT`: the six values of `RCODE` that are ever produced, with `POS` where it is not 0 (R38, R39). -/
inductive Result where
  /-- RCODE 0: no TRANSLATE has completed since reset -/
  | none
  /-- RCODE 1: all checks passed -/
  | ok
  /-- RCODE 2 -/
  | startGuardError
  /-- RCODE 3: `InvalidDigitError(POS)` -/
  | invalidDigitError (pos : Fin 8)
  /-- RCODE 4 -/
  | dividerError
  /-- RCODE 5 -/
  | stopGuardError
deriving DecidableEq, Repr

/-- All the block's commands read and write, but for the sequencer state. -/
structure Datapath where
  /-- `CTRL.IE` (R26) -/
  ie       : Bool
  /-- `STATUS`, but for `BUSY` (R28) -/
  status   : Status
  /-- `OFFSET.VAL` (R30) -/
  offset   : BitVec 8
  /-- `WIDTH` (R31) -/
  width    : Word
  /-- `HEIGHT` (R32) -/
  height   : Word
  /-- `PIXBASE` (R33) -/
  pixbase  : Word
  /-- `ROWSEL` (R34) -/
  rowsel   : Word
  /-- `ROWADDR` (R35) -/
  rowaddr  : Word
  /-- `CURSOR` (R36) -/
  cursor   : Word
  /-- `MODW` (R37) -/
  modw     : Word
  /-- `RESULT` (R38, R39) -/
  result   : Result
  /-- `DIGITS` (R40) -/
  digits   : Word
  /-- `CODE0` to `CODE10`, field `VAL` (R42) -/
  codes    : Vector Code 11
  /-- the cells of `SL` written since the last reset input (R43, R191) -/
  sl       : Scanline
  /-- `SCAN_MAX - 1`, constant (R9, R41) -/
  capPred  : BitVec 20
  /-- pixel memory, owned by the host (R60 (2), R61) -/
  mem      : Memory
  /-- the address ranges of pixel memory that answer with an error response, constant (U6) -/
  errs     : List (Nat × Nat)
  /-- the addresses the last command issued on the pixel-memory port, in order (R23 (2), R71); DESIGN
  CHOICE, assumption 16 -/
  pixReads : List Word
  /-- the MODEL's own: how many draws have been taken (R15); DESIGN CHOICE, assumption 5 -/
  draws    : Nat
deriving DecidableEq, Repr

/-- `SCAN_MAX` (R9, R41). -/
def Datapath.scanMax (d : Datapath) : Nat := d.capPred.toNat + 1

/-- The register values of reset (R24, R190), over `d`: the scanline buffer, pixel memory, the platform's
parameters and the model's own fields stay. This is SOFTRESET's effect (R155); the reset input also
unspecifies the scanline buffer (R191). -/
def Datapath.resetRegisters (d : Datapath) : Datapath :=
  { d with
    ie := false
    status := {}
    offset := 2
    width := 0
    height := 0
    pixbase := 0
    rowsel := 0
    rowaddr := 0
    cursor := 0
    modw := 0
    result := .none
    digits := noDigits
    codes := Vector.replicate 11 0 }

/-- The effect of the reset input on the registers and the scanline buffer (R190, R191, R192). -/
def Datapath.resetInput (d : Datapath) : Datapath :=
  { d.resetRegisters with sl := [] }

/-- Power-on (R190): the reset values, nothing written in the scanline buffer (R191) or listed in pixel
memory (R192), the platform's parameters, and the model's own fields at their first values. -/
def Datapath.powerOn : Datapath :=
  { ie := false
    status := {}
    offset := 2
    width := 0
    height := 0
    pixbase := 0
    rowsel := 0
    rowaddr := 0
    cursor := 0
    modw := 0
    result := .none
    digits := noDigits
    codes := Vector.replicate 11 0
    sl := []
    capPred := Config.scanMaxPred
    mem := []
    errs := Config.pixelErrors
    pixReads := []
    draws := 0 }

end Sys2Proof.Machine
end

