-- ==== Sys2Proof/Machine/State.lean ====
section
/-! DEFINITION. The state of EMSD and of its host's acts still to come, as plain data; the faults and refusals. -/

namespace Sys2Proof.Machine

/-- The commands that have a busy period (R22, R151). -/
inductive Op where
  | unpack
  | measure
  | classify
  | assemble
  | translate
  | run
deriving DecidableEq, Repr

/-- Where one evaluation of `Classify` stands (R115, R46). -/
inductive Vote where
  /-- before the read of the span's start -/
  | first
  /-- the span's start was read as `a`; before the read of the far sample -/
  | far (a : Colour)
  /-- in the vote: before window pixel `k`, with `darks` and `lights` counted so far -/
  | window (k darks lights : Nat)
deriving DecidableEq, Repr

/-- `pos`: the block's position in the pseudocode of the running command, with the hidden state it has
there (R22, R46). In RUN the constructor tells the phase. -/
inductive Pos where
  /-- before the command's first line -/
  | start
  /-- UNPACK: before the read of pixel byte `j` (R103) -/
  | byte (j : Nat)
  /-- MEASURE: in the margin skip, at index `p` (R112) -/
  | skip (p : Nat)
  /-- MEASURE: in the width count from `p`, with `n` counted so far (R112) -/
  | count (p n : Nat)
  /-- CLASSIFY (R117) -/
  | span (v : Vote)
  /-- ASSEMBLE: segment `k`, module `m`, accumulator `acc`, local cursor `c` (R126) -/
  | sample (k : Fin 11) (m : Nat) (acc : Code) (c : Word) (v : Vote)
  /-- TRANSLATE: before the check of `CODE[k]`, with the digits found so far (R140) -/
  | check (k : Fin 11) (found : List (Fin 10))
deriving DecidableEq, Repr

/-- What the host's acts in a busy period leave behind for the running command (R200 (b), R201). -/
structure Hazard where
  /-- the `STATUS` fields the host cleared that the command may write (R200 (b)) -/
  raced   : Status := {}
  /-- a pixel byte of the selected row was written while UNPACK was reading (R74 (d), R201) -/
  pixRace : Bool := false
deriving DecidableEq, Repr

/-- The sequencer state (R22). -/
inductive Seq where
  /-- `IDLE` -/
  | idle
  /-- `BUSY(op, pos)` -/
  | busy (op : Op) (pos : Pos) (hz : Hazard)
deriving DecidableEq, Repr

/-- The direction and the data of a register access. -/
inductive Access where
  | read
  | write (v : Word)
deriving DecidableEq, Repr

/-- One act of the host (R19, R23). -/
inductive HostAct where
  /-- a register access on EMSD's port, at a byte offset in the window, of `size` bytes (R23 (1), R67) -/
  | port (offset : BitVec 23) (size : Nat) (access : Access)
  /-- the same by absolute address in the host's address space (R66) -/
  | bus (addr : Nat) (size : Nat) (access : Access)
  /-- a write of one byte of pixel memory, by the host or any other agent (R61, R74 (d)) -/
  | pixelWrite (addr : Word) (b : Byte)
  /-- the reset input is asserted (R23 (4), R190) -/
  | resetInput
deriving DecidableEq, Repr

/-- When an act lands, counted from the act before it (R210): while the block is idle, at once.
DESIGN CHOICE, safe: assumption 2. -/
inductive Moment where
  /-- once the block is idle, as a host does that polls `STATUS` or waits for `IRQ` -/
  | whenIdle
  /-- after `n` more block steps, or as soon as the block is idle -/
  | after (n : Nat)
deriving DecidableEq, Repr

/-- An act of the host and its moment. -/
structure Turn where
  moment : Moment
  act    : HostAct
deriving DecidableEq, Repr

/-- What the register port last answered (R23 (1), R67). DESIGN CHOICE: assumptions 12 and 20. -/
inductive Response where
  /-- no access has been answered -/
  | none
  /-- read data -/
  | data (w : Word)
  /-- a write was taken: stored, ignored or dropped as the rules say, with no error -/
  | written
  /-- the error response, to an access of the wrong shape (R67) -/
  | error
deriving DecidableEq, Repr

/-- The whole machine. -/
structure State where
  /-- the registers, the scanline buffer and the memory port -/
  dp   : Datapath
  /-- the sequencer state (R22) -/
  seq  : Seq
  /-- the last answer of the register port (R23 (1)) -/
  resp : Response
  /-- the MODEL's own: the host's acts still to come; DESIGN CHOICE, assumption 1 -/
  host : List Turn
deriving DecidableEq, Repr

/-- The machine right after power-on (R190): idle, every register at its reset value. -/
def State.reset : State :=
  { dp := Datapath.powerOn, seq := .idle, resp := .none, host := [] }

/-- Why the machine stops with a fault. -/
inductive Fault where
  /-- a host access by absolute address outside the register window, an address at which EMSD does not
  exist (R66); raised by `takeTurn` for `HostAct.bus`. Safe: the real access would reach some other device
  and leave EMSD as it is (DESIGN CHOICE, assumption 10). -/
  | outsideWindow
deriving DecidableEq, Repr

/-- Why the model refuses an instruction. -/
inductive Refusal where
  /-- an instruction that has no meaning yet, raised by `exec`; no arm of `exec` answers it now. Safe. -/
  | notModelled (mnemonic : String)
deriving DecidableEq, Repr

end Sys2Proof.Machine
end

