-- ==== Sys2Proof/Machine/Ops.lean ====
section
/-! DEFINITION. The named operations: draws, scanline and pixel reads, taking an abort, acceptance and
completion of a command (R15, R62, R110, R150, R151, R164). -/

namespace Sys2Proof.Machine

/-- `draw_bit()`: a fresh free bit (R15). -/
def drawBit (d : Datapath) : Bool × Datapath :=
  (Config.freeBit d.draws, { d with draws := d.draws + 1 })

/-- A fresh free byte (R62). -/
def drawByte (d : Datapath) : Byte × Datapath :=
  (Config.freeByte d.draws, { d with draws := d.draws + 1 })

/-- A fresh free word (R200 (c)). -/
def drawWord (d : Datapath) : Word × Datapath :=
  (Config.freeWord d.draws, { d with draws := d.draws + 1 })

/-- The read of scanline cell `i`: its value when it was written since the last reset input, else a draw
(R43, R191). DEDUCED, safe: assumption 6. -/
def readCell (i : Nat) (d : Datapath) : Colour × Datapath :=
  match sparseGet d.sl i with
  | some c => (c, d)
  | none => drawBit d

/-- `SL[i] <- c` (R43). -/
def writeCell (i : Nat) (c : Colour) (d : Datapath) : Datapath :=
  { d with sl := sparseSet d.sl i c }

/-- `SLRead(i)`, for any integer `i` (R110). -/
def slRead (i : Int) (d : Datapath) : Colour × Datapath :=
  if 0 ≤ i ∧ i < d.width.toInt then readCell i.toNat d
  else drawBit { d with status := { d.status with oob := true } }

/-- Does pixel memory answer a read at `a` with an error response (R62, U6)? -/
def pixelError (errs : List (Nat × Nat)) (a : Word) : Bool :=
  errs.any fun r => decide (r.1 ≤ a.toNat) && decide (a.toNat < r.1 + r.2)

/-- `MemRead(a, 1)`: the byte, or `none` for an error response (R62). The byte is a draw when the read
races a write of the row (R74 (d), R201; DEDUCED, safe: assumption 15) or nothing was written at `a` (DESIGN
CHOICE, safe: assumption 7). -/
def memRead (race : Bool) (a : Word) (d : Datapath) : Option Byte × Datapath :=
  let d := { d with pixReads := d.pixReads ++ [a] }
  if pixelError d.errs a then (none, d)
  else
    match race, sparseGet d.mem a.toNat with
    | false, some b => (some b, d)
    | _, _ => let (b, d) := drawByte d; (some b, d)

/-- The abort conditions (R160, R164). -/
inductive Abort where
  /-- a configuration check failed (R161) -/
  | cfgError
  /-- a pixel read got an error response (R162) -/
  | busError
deriving DecidableEq, Repr

/-- The `STATUS` bit of an abort condition (R161, R162): the first half of `raise` (R164). -/
def abortStatus (e : Abort) (st : Status) : Status :=
  match e with
  | .cfgError => { st with cfgerr := true }
  | .busError => { st with buserr := true }

/-- A command body: it runs to its end (`ok`), or ends early through `raise` (`error`), with the datapath it
leaves. -/
abbrev Body := Datapath → Except Datapath Datapath

/-- `raise e` (R164): the condition's status bit, and the body ends. `finishFlags` follows, as after every
body. -/
def raise (e : Abort) : Body := fun d => .error { d with status := abortStatus e d.status }

/-- The datapath a body leaves, whichever way it ended. -/
def bodyEnd : Except Datapath Datapath → Datapath
  | .ok d => d
  | .error d => d

/-- A draw in place of `v` when `c` holds. -/
def drawIf (c : Bool) (v : Bool) (d : Datapath) : Bool × Datapath :=
  if c then drawBit d else (v, d)

/-- The flags of `finish()`: `DONE <- 1` (R150). A field that the host cleared in the busy period and that
the command may write is a draw after it (R200 (b), U4). DEDUCED, safe: assumption 13. -/
def finishFlags (raced : Status) (d : Datapath) : Datapath :=
  let (done, d) := drawIf raced.done true d
  let (oob, d) := drawIf raced.oob d.status.oob d
  let (cfgerr, d) := drawIf raced.cfgerr d.status.cfgerr d
  let (buserr, d) := drawIf raced.buserr d.status.buserr d
  { d with status := { d.status with done := done, oob := oob, cfgerr := cfgerr, buserr := buserr } }

/-- The flags of acceptance: `DONE <- 0` (R151). The trace of the pixel-memory port starts anew. -/
def acceptFlags (d : Datapath) : Datapath :=
  { d with status := { d.status with done := false }, pixReads := [] }

/-- Acceptance of command `op`: `DONE <- 0`, `BUSY <- 1`, `BUSY(op, start)` (R151). -/
def accept (op : Op) (s : State) : State :=
  { s with dp := acceptFlags s.dp, seq := .busy op .start {} }

/-- Does no act of the host land in a busy period that begins now? -/
def undisturbed (s : State) : Bool :=
  match s.host with
  | ⟨.after _, _⟩ :: _ => false
  | _ => true

/-- A write dropped because the block is busy: only `BUSYWR` is set (R200 (a)). -/
def busyWrite (s : State) : State :=
  { s with dp := { s.dp with status := { s.dp.status with busywr := true } } }

/-- A command with a busy period, as an idle block takes it (R151): when no act of the host lands in the
busy period, its body runs and `finish()` ends it (R150, R152); else it is accepted and the block's own
steps run it (DESIGN CHOICE, safe: assumption 3). A busy block drops the `CMD` write (R200 (a); DEDUCED,
safe: assumption 17). -/
def command (op : Op) (body : Body) (s : State) : Host.Outcome State Fault Refusal :=
  match s.seq with
  | .busy _ _ _ => .next (busyWrite s)
  | .idle =>
    if undisturbed s then
      .next { s with dp := finishFlags {} (bodyEnd (body (acceptFlags s.dp))), seq := .idle }
    else .next (accept op s)

/-- An illegal command word, as an idle block takes it: `ILLCMD <- 1`, `DONE <- 1`, nothing else (R90). -/
def illegalCommand (s : State) : Host.Outcome State Fault Refusal :=
  match s.seq with
  | .busy _ _ _ => .next (busyWrite s)
  | .idle =>
    .next { s with dp := { s.dp with status := { s.dp.status with illcmd := true, done := true } } }

/-- The reset input (R190, R194): a running command is abandoned, the sequencer is idle. Pixel memory stays
(R192); the host's acts go on. -/
def resetInput (s : State) : State := { s with dp := s.dp.resetInput, seq := .idle }

/-- `IRQ`, a level output (R47). -/
def irq (s : State) : Bool := s.dp.ie && s.dp.status.done

end Sys2Proof.Machine
end

