-- ==== Sys2Proof/Machine/Operands.lean ====
section
/-! DEFINITION. How a command reads its operand registers (R88), the configuration checks (R161), the
geometry of the selected row (R63, R100 to R103) and the span of a classification (R114). -/

namespace Sys2Proof.Machine

/-- `W = sint32(WIDTH)` as a count, 0 when it is negative (R31). -/
def scanWidth (d : Datapath) : Nat := d.width.toInt.toNat

/-- `1 <= sint32(WIDTH) <= SCAN_MAX` (R161). -/
def widthOk (d : Datapath) : Bool :=
  decide (1 ≤ d.width.toInt) && decide (d.width.toInt ≤ (d.scanMax : Int))

/-- The check of UNPACK and RUN: also `sint32(HEIGHT)` not 0 (R161). -/
def imageOk (d : Datapath) : Bool := widthOk d && d.height != 0

/-- The selected logical row, `abs(sint32(HEIGHT)) div 2` (R100). -/
def logicalRow (d : Datapath) : Nat := d.height.toInt.natAbs / 2

/-- The stored row of the selected logical row: bottom-up for a positive height, top-down for a negative
one (R101). -/
def storedRow (d : Datapath) : Nat :=
  if 0 < d.height.toInt then d.height.toInt.natAbs - 1 - logicalRow d else logicalRow d

/-- The row stride in bytes, `((W + 31) >> 5) << 2` (R63, R102). -/
def stride (d : Datapath) : Nat := ((scanWidth d + 31) >>> 5) <<< 2

/-- `rowaddr = (PIXBASE + s * stride) mod 2^32` (R102). -/
def rowAddress (d : Datapath) : Word := BitVec.ofNat 32 (d.pixbase.toNat + storedRow d * stride d)

/-- How many pixel bytes the row has, `(W + 7) div 8` (R63, R103). -/
def pixelBytes (d : Datapath) : Nat := (scanWidth d + 7) / 8

/-- The index of address `a` among the pixel bytes of the selected row, if it is one of them (R201). -/
def rowIndex (d : Datapath) (a : Word) : Option Nat :=
  let i := (a - rowAddress d).toNat
  if i < pixelBytes d then some i else none

/-- The position of the far sample, `buf + bw - off - 1`, exact (R114). -/
def farIndex (buf bw off : Nat) : Int := (buf : Int) + bw - off - 1

/-- The position of window pixel `k`, `buf - off + k`, exact (R114). -/
def windowIndex (buf off k : Nat) : Int := (buf : Int) - off + k

end Sys2Proof.Machine
end

