-- ==== Sys2Proof/Machine/Flags.lean ====
section
/-! DEFINITION. `STATUS` and `RESULT` as register words, the W1C write, and which fields a command may write
(R28, R29, R38, R39, R45). -/

namespace Sys2Proof.Machine

/-- The word with `b` at bit `n` and 0 elsewhere (R12). -/
def flagBit (b : Bool) (n : Nat) : Word := if b then 1 <<< n else 0

/-- `STATUS` as read (R28): bit 0 `BUSY` to bit 8 `BUSYWR`, the other bits 0. -/
def statusWord (busy : Bool) (st : Status) : Word :=
  flagBit busy 0 ||| flagBit st.done 1 ||| flagBit st.oob 2 ||| flagBit st.nobar 3 |||
  flagBit st.clsbit 4 ||| flagBit st.illcmd 5 ||| flagBit st.cfgerr 6 ||| flagBit st.buserr 7 |||
  flagBit st.busywr 8

/-- The W1C fields whose bit is 1 in the written word (R28, R29). -/
def w1cFields (v : Word) : Status :=
  { done := v.getLsbD 1, oob := v.getLsbD 2, illcmd := v.getLsbD 5, cfgerr := v.getLsbD 6,
    buserr := v.getLsbD 7, busywr := v.getLsbD 8 }

/-- The fields of `st` that are not in `c` (R29). -/
def Status.without (st c : Status) : Status :=
  { done := st.done && !c.done, oob := st.oob && !c.oob, nobar := st.nobar && !c.nobar,
    clsbit := st.clsbit && !c.clsbit, illcmd := st.illcmd && !c.illcmd, cfgerr := st.cfgerr && !c.cfgerr,
    buserr := st.buserr && !c.buserr, busywr := st.busywr && !c.busywr }

/-- The fields in both sets. -/
def Status.inter (a b : Status) : Status :=
  { done := a.done && b.done, oob := a.oob && b.oob, nobar := a.nobar && b.nobar,
    clsbit := a.clsbit && b.clsbit, illcmd := a.illcmd && b.illcmd, cfgerr := a.cfgerr && b.cfgerr,
    buserr := a.buserr && b.buserr, busywr := a.busywr && b.busywr }

/-- The fields in either set. -/
def Status.union (a b : Status) : Status :=
  { done := a.done || b.done, oob := a.oob || b.oob, nobar := a.nobar || b.nobar,
    clsbit := a.clsbit || b.clsbit, illcmd := a.illcmd || b.illcmd, cfgerr := a.cfgerr || b.cfgerr,
    buserr := a.buserr || b.buserr, busywr := a.busywr || b.busywr }

/-- The effect of a host write of `v` to `STATUS` (R29). -/
def w1cWrite (v : Word) (st : Status) : Status := st.without (w1cFields v)

/-- The stored `STATUS` fields that the running command may write (R45). -/
def mayWriteStatus : Op → Status
  | .unpack => { done := true, cfgerr := true, buserr := true }
  | .measure => { done := true, cfgerr := true, nobar := true }
  | .classify => { done := true, cfgerr := true, oob := true, clsbit := true }
  | .assemble => { done := true, cfgerr := true, oob := true }
  | .translate => { done := true }
  | .run => { done := true, cfgerr := true, buserr := true, nobar := true, oob := true }

/-- `RCODE` (R39). -/
def Result.rcode : Result → Nat
  | .none => 0
  | .ok => 1
  | .startGuardError => 2
  | .invalidDigitError _ => 3
  | .dividerError => 4
  | .stopGuardError => 5

/-- `POS`, 0 unless `RCODE` is 3 (R38). -/
def Result.pos : Result → Nat
  | .invalidDigitError p => p.val
  | _ => 0

/-- `RESULT` as read: `RCODE` in [3:0], `POS` in [10:8] (R38). -/
def resultWord (r : Result) : Word := BitVec.ofNat 32 (r.rcode + 256 * r.pos)

/-- `NOBAR` after a MEASURE that counted `n` dark pixels (R113). -/
def noBar (n : Nat) : Bool := n == 0

end Sys2Proof.Machine
end

