-- ==== Sys2Proof/Machine/Unpack.lean ====
section
/-! DEFINITION. UNPACK, the bit-unpacker (R100 to R105). -/

namespace Sys2Proof.Machine

/-- The inner line of UNPACK for bit `t` of pixel byte `j`: most significant bit first, no inversion, cells
at or above `W` not written (R64, R103). -/
def storeBit (j : Nat) (b : Byte) (d : Datapath) (t : Nat) : Datapath :=
  if 8 * j + t < scanWidth d then writeCell (8 * j + t) (b.getLsbD (7 - t)) d else d

/-- The cells of pixel byte `j` (R103). -/
def storeByte (j : Nat) (b : Byte) (d : Datapath) : Datapath :=
  [0, 1, 2, 3, 4, 5, 6, 7].foldl (storeBit j b) d

/-- One turn of UNPACK's byte loop: the read of byte `j` and its cells, or BusError (R103, R162). -/
def unpackByte (race : Bool) (j : Nat) : Body := fun d =>
  match memRead race (d.rowaddr + BitVec.ofNat 32 j) d with
  | (none, d) => raise .busError d
  | (some b, d) => .ok (storeByte j b d)

/-- `rem` turns of the byte loop from byte `j` on, in increasing order (R71, R103). -/
def unpackLoop : Nat → Nat → Body
  | 0, _, d => .ok d
  | rem + 1, j, d =>
    match unpackByte false j d with
    | .ok d => unpackLoop rem (j + 1) d
    | .error d => .error d

/-- `ROWSEL` and `ROWADDR` (R34, R35, R103). -/
def selectRow (d : Datapath) : Datapath :=
  { d with rowsel := BitVec.ofNat 32 (logicalRow d), rowaddr := rowAddress d }

/-- The body of UNPACK (R103). -/
def unpackBody : Body := fun d =>
  if imageOk d then unpackLoop (pixelBytes d) 0 (selectRow d) else raise .cfgError d

/-- UNPACK (R103). -/
def execUnpack (s : State) : Host.Outcome State Fault Refusal := command .unpack unpackBody s

end Sys2Proof.Machine
end

