-- ==== Sys2Proof/Machine/Sampler.lean ====
section
/-! DEFINITION. The module sampler: MEASURE and CLASSIFY (R110 to R118). -/

namespace Sys2Proof.Machine

/-- The margin skip from index `p`, with `rem` cells left before `W`: past the leading light cells
(R111, R112). -/
def skipLoop : Nat → Nat → Datapath → Nat × Datapath
  | 0, p, d => (p, d)
  | rem + 1, p, d =>
    match readCell p d with
    | (true, d) => skipLoop rem (p + 1) d
    | (false, d) => (p, d)

/-- The width count from index `p`, `n` counted so far, with `rem` cells left before `W`: the length of the
dark run (R111, R112). -/
def countLoop : Nat → Nat → Nat → Datapath → Nat × Datapath
  | 0, _, n, d => (n, d)
  | rem + 1, p, n, d =>
    match readCell (p + n) d with
    | (false, d) => countLoop rem p (n + 1) d
    | (true, d) => (n, d)

/-- How many dark cells the margin skip that stopped at `p` has read: the cell at `p`, unless the skip ran to
the end of the row. The width count goes on from there, so that MEASURE reads no cell twice and at most `W`
cells (R112, R211; DEDUCED: assumption 25). -/
def firstDark (p : Nat) (d : Datapath) : Nat := if p < scanWidth d then 1 else 0

/-- The last lines of MEASURE: `CURSOR`, `MODW`, `NOBAR` (R112, R113). -/
def endMeasure (p n : Nat) (d : Datapath) : Datapath :=
  { d with
    cursor := BitVec.ofNat 32 p
    modw := BitVec.ofNat 32 n
    status := { d.status with nobar := noBar n } }

/-- The body of MEASURE: the margin skip, then the width count from the dark cell that ended it (R111, R112). -/
def measureBody : Body := fun d =>
  if widthOk d then
    let (p, d) := skipLoop (scanWidth d) 0 d
    let (n, d) := countLoop (scanWidth d - p - firstDark p d) p (firstDark p d) d
    .ok (endMeasure p n d)
  else raise .cfgError d

/-- MEASURE (R112). -/
def execMeasure (s : State) : Host.Outcome State Fault Refusal := command .measure measureBody s

/-- What one turn of the vote gives. -/
inductive Ballot where
  /-- a colour has a strict majority -/
  | decided (c : Colour)
  /-- no strict majority yet: the counts -/
  | counted (darks lights : Nat)
deriving DecidableEq, Repr

/-- One turn of the vote of `Classify`: the read of window pixel `k`, the counts, the strict majority
(R115). -/
def voteTurn (buf bw off k darks lights : Nat) (d : Datapath) : Ballot × Datapath :=
  let (v, d) := slRead (windowIndex buf off k) d
  let darks := if v then darks else darks + 1
  let lights := if v then lights + 1 else lights
  if bw / 2 < darks then (.decided dark, d)
  else if bw / 2 < lights then (.decided light, d)
  else (.counted darks lights, d)

/-- `rem` turns of the vote from window pixel `k` on; dark when none decides (R115). That R115 and R116 (b), and
not R118 (b) and (d), hold on an exact split of the window is DEDUCED: assumption 26. -/
def voteLoop (buf bw off : Nat) : Nat → Nat → Nat → Nat → Datapath → Colour × Datapath
  | 0, _, _, _, d => (dark, d)
  | rem + 1, k, darks, lights, d =>
    match voteTurn buf bw off k darks lights d with
    | (.decided c, d) => (c, d)
    | (.counted darks lights, d) => voteLoop buf bw off rem (k + 1) darks lights d

/-- `Classify(buf, bw, off)` (R115): the two boundary samples, and the vote when they differ. -/
def classifySpan (buf bw off : Nat) (d : Datapath) : Colour × Datapath :=
  let (a, d) := slRead buf d
  let (b, d) := slRead (farIndex buf bw off) d
  if a = b then (a, d) else voteLoop buf bw off bw 0 0 0 d

/-- The last line of CLASSIFY: `CLSBIT` (R117). -/
def endClassify (c : Colour) (d : Datapath) : Datapath :=
  { d with status := { d.status with clsbit := c } }

/-- The body of CLASSIFY (R117). -/
def classifyBody : Body := fun d =>
  if widthOk d then
    let (c, d) := classifySpan d.cursor.toNat d.modw.toNat d.offset.toNat d
    .ok (endClassify c d)
  else raise .cfgError d

/-- CLASSIFY (R117). -/
def execClassify (s : State) : Host.Outcome State Fault Refusal := command .classify classifyBody s

end Sys2Proof.Machine
end

