-- ==== Sys2Proof/Machine/Decoder.lean ====
section
/-! DEFINITION. The symbol decoder: ASSEMBLE (R125 to R131). -/

namespace Sys2Proof.Machine

/-- `ACC <- (ACC << 1) + c`, 7 bits (R126). -/
def shiftIn (acc : Code) (c : Colour) : Code := (acc <<< 1) + (if c then 1 else 0)

/-- `CODE[k] <- v` (R42, R126). -/
def setCode (k : Fin 11) (v : Code) (d : Datapath) : Datapath := { d with codes := d.codes.set k v }

/-- `m` modules of one segment from cursor `c` on: the accumulator and the cursor after them (R126). -/
def sampleModules (bw : Word) (off : Nat) : Nat → Code → Word → Datapath → (Code × Word) × Datapath
  | 0, acc, c, d => ((acc, c), d)
  | m + 1, acc, c, d =>
    let (x, d) := classifySpan c.toNat bw.toNat off d
    sampleModules bw off m (shiftIn acc x) (c + bw) d

/-- The segments `ks` from cursor `c` on: each code is stored; the cursor after them (R126). -/
def sampleSegments (bw : Word) (off : Nat) : List (Fin 11) → Word → Datapath → Word × Datapath
  | [], c, d => (c, d)
  | k :: ks, c, d =>
    let ((acc, c), d) := sampleModules bw off (segLen k) 0 c d
    sampleSegments bw off ks c (setCode k acc d)

/-- The body of ASSEMBLE (R126). -/
def assembleBody : Body := fun d =>
  if widthOk d then
    let (c, d) := sampleSegments d.modw d.offset.toNat segments d.cursor d
    .ok { d with cursor := c }
  else raise .cfgError d

/-- ASSEMBLE (R126). -/
def execAssemble (s : State) : Host.Outcome State Fault Refusal := command .assemble assembleBody s

end Sys2Proof.Machine
end

