-- ==== Sys2Proof/Machine/Translate.lean ====
section
/-! DEFINITION. The digit translator: TRANSLATE (R135 to R146). -/

namespace Sys2Proof.Machine

/-- `Lookup(T, v)` from digit `n` on: the smallest digit whose entry is `v` (R141). -/
def lookupFrom : List Code → Nat → Code → Option (Fin 10)
  | [], _, _ => none
  | e :: es, n, v =>
    if e = v then (if h : n < 10 then some ⟨n, h⟩ else none) else lookupFrom es (n + 1) v

/-- `Lookup(T, v)` (R141). -/
def lookup (table : List Code) (v : Code) : Option (Fin 10) := lookupFrom table 0 v

/-- What the check of one code gives. -/
inductive Verdict where
  /-- a guard that is right -/
  | pass
  /-- a digit -/
  | digit (x : Fin 10)
  /-- the check fails: the result it reports -/
  | fail (r : Result)
deriving DecidableEq, Repr

/-- A guard check: all seven bits are compared (R144). -/
def checkGuard (want v : Code) (r : Result) : Verdict := if v = want then .pass else .fail r

/-- A digit check at digit position `p` (R140). -/
def checkDigit (table : List Code) (v : Code) (p : Fin 8) : Verdict :=
  match lookup table v with
  | some x => .digit x
  | none => .fail (.invalidDigitError p)

/-- The check of `CODE[k]`, holding `v` (R140, R142). -/
def checkCode (k : Fin 11) (v : Code) : Verdict :=
  match k.val with
  | 0 => checkGuard startGuard v .startGuardError
  | 1 => checkDigit digitTables.1 v 0
  | 2 => checkDigit digitTables.1 v 1
  | 3 => checkDigit digitTables.1 v 2
  | 4 => checkDigit digitTables.1 v 3
  | 5 => checkGuard dividerGuard v .dividerError
  | 6 => checkDigit digitTables.2 v 4
  | 7 => checkDigit digitTables.2 v 5
  | 8 => checkDigit digitTables.2 v 6
  | 9 => checkDigit digitTables.2 v 7
  | _ => checkGuard stopGuard v .stopGuardError

/-- The digits as BCD nibbles, the first in the most significant place (R40, R143). -/
def packDigits (ds : List (Fin 10)) : Word :=
  ds.foldl (fun acc x => (acc <<< 4) ||| BitVec.ofNat 32 x.val) 0

/-- The end of TRANSLATE on every path: `RESULT`, and `DIGITS` or no digits (R140). -/
def endTranslate (r : Result) (ds : List (Fin 10)) (d : Datapath) : Datapath :=
  { d with result := r, digits := if r = .ok then packDigits ds else noDigits }

/-- The checks of the codes `ks`, in order, with the digits found so far: the first failing check decides,
and no later one is evaluated (R140, R142). -/
def translateLoop : List (Fin 11) → List (Fin 10) → Datapath → Datapath
  | [], found, d => endTranslate .ok found d
  | k :: ks, found, d =>
    match checkCode k d.codes[k] with
    | .pass => translateLoop ks found d
    | .digit x => translateLoop ks (found ++ [x]) d
    | .fail r => endTranslate r found d

/-- The body of TRANSLATE: it never aborts (R140, R163). -/
def translateBody : Body := fun d => .ok (translateLoop segments [] d)

/-- TRANSLATE (R140). -/
def execTranslate (s : State) : Host.Outcome State Fault Refusal := command .translate translateBody s

end Sys2Proof.Machine
end

