-- ==== Sys2Proof/Machine/Control.lean ====
section
/-! DEFINITION. RUN, SOFTRESET and the illegal command words (R90, R91, R153 to R155). -/

namespace Sys2Proof.Machine

/-- One body after another: a `raise` in the first ends both (R153). -/
def bodyThen (a b : Body) : Body := fun d =>
  match a d with
  | .ok d => b d
  | .error d => .error d

/-- The body of RUN: UNPACK, MEASURE, ASSEMBLE, TRANSLATE (R153, R154). -/
def runBody : Body := bodyThen unpackBody (bodyThen measureBody (bodyThen assembleBody translateBody))

/-- RUN (R153). -/
def execRun (s : State) : Host.Outcome State Fault Refusal := command .run runBody s

/-- SOFTRESET (R155): every register but the scanline buffer takes its reset value, with no busy period and
`DONE` left 0. A busy block drops it (R200 (a)). -/
def execSoftreset (s : State) : Host.Outcome State Fault Refusal :=
  match s.seq with
  | .busy _ _ _ => .next (busyWrite s)
  | .idle => .next { s with dp := s.dp.resetRegisters }

/-- The word with OP 0x0 and RSV 0: illegal, and no no-op (R90, R91). -/
def execReservedOp0 (s : State) : Host.Outcome State Fault Refusal := illegalCommand s

/-- The words with OP 0x8 to 0xF and RSV 0: illegal (R90, R91). -/
def execReservedOp8F (_low : BitVec 3) (s : State) : Host.Outcome State Fault Refusal := illegalCommand s

/-- The words with RSV not 0: illegal whatever OP holds (R90, R91). -/
def execReservedRsv (_op : BitVec 4) (_rsv : BitVec 28) (s : State) : Host.Outcome State Fault Refusal :=
  illegalCommand s

end Sys2Proof.Machine
end

