-- ==== Sys2Proof/Syntax.lean ====
section
/-! DEFINITION. The command set EMSD-1 (R86, R89): one constructor per row of the opcode table. -/

namespace Sys2Proof

/-- A word written to `CMD`, decoded (R86, R89).  A command carries no operand (R87); the three
reserved rows keep the bits that tell their words apart, so that no bit of a word is lost. -/
inductive Instr where
  /-- OP 0x1, R103 -/
  | unpack
  /-- OP 0x2, R112 -/
  | measure
  /-- OP 0x3, R117 -/
  | classify
  /-- OP 0x4, R126 -/
  | assemble
  /-- OP 0x5, R140 -/
  | translate
  /-- OP 0x6, R153 -/
  | run
  /-- OP 0x7, R155 -/
  | softreset
  /-- OP 0x0 with RSV = 0: reserved and illegal, R90, R91 -/
  | reservedOp0
  /-- OP 0x8 to 0xF with RSV = 0: reserved and illegal, R90, R91; `low` is bits [2:0] -/
  | reservedOp8F (low : BitVec 3)
  /-- RSV not 0: illegal whatever OP holds, R90, R91; `op` is bits [3:0], `rsv` bits [31:4] -/
  | reservedRsv (op : BitVec 4) (rsv : BitVec 28)
deriving DecidableEq, Repr

end Sys2Proof
end

