-- ==== Sys2Proof/Machine/Dispatch.lean ====
section
/-! DEFINITION. The meaning of each command word that the idle block takes (R89 to R91, R151). -/

namespace Sys2Proof.Machine

def exec (i : Instr) (s : State) : Host.Outcome State Fault Refusal :=
  match i with
  | .unpack => Sys2Proof.Machine.execUnpack s
  | .measure => Sys2Proof.Machine.execMeasure s
  | .classify => Sys2Proof.Machine.execClassify s
  | .assemble => Sys2Proof.Machine.execAssemble s
  | .translate => Sys2Proof.Machine.execTranslate s
  | .run => Sys2Proof.Machine.execRun s
  | .softreset => Sys2Proof.Machine.execSoftreset s
  | .reservedOp0 => Sys2Proof.Machine.execReservedOp0 s
  | .reservedOp8F low => Sys2Proof.Machine.execReservedOp8F low s
  | .reservedRsv op rsv => Sys2Proof.Machine.execReservedRsv op rsv s

end Sys2Proof.Machine
end

