-- ==== Sys2Proof/WellFormed.lean ====
section
/-! DEFINITION. Which terms of `Instr` stand for a word of `CMD`, and which of them are illegal words. -/

namespace Sys2Proof

/-- The one check: the row "RSV != 0" needs a nonzero RSV (R89, R90). -/
def Instr.wellFormed : Instr → Bool
  | .unpack => true
  | .measure => true
  | .classify => true
  | .assemble => true
  | .translate => true
  | .run => true
  | .softreset => true
  | .reservedOp0 => true
  | .reservedOp8F _ => true
  | .reservedRsv _ rsv => rsv != 0

/-- The instructions that are illegal command words (R89, R90). -/
def Instr.illegal : Instr → Bool
  | .unpack => false
  | .measure => false
  | .classify => false
  | .assemble => false
  | .translate => false
  | .run => false
  | .softreset => false
  | .reservedOp0 => true
  | .reservedOp8F _ => true
  | .reservedRsv _ _ => true

end Sys2Proof
end

