-- ==== Sys2Proof/Decode.lean ====
section
/-! DEFINITION. Decoding and encoding of the words written to `CMD` (R85 to R91). -/

namespace Sys2Proof

/-- R89 on a 32-bit word: total.  Bits [31:4] are RSV, bits [3:0] are OP (R85). -/
def decodeWord (v : Word) : Instr :=
  let rsv := v.extractLsb' 4 28
  let op := v.extractLsb' 0 4
  if rsv ≠ 0 then .reservedRsv op rsv
  else
    match op.toNat with
    | 1 => .unpack
    | 2 => .measure
    | 3 => .classify
    | 4 => .assemble
    | 5 => .translate
    | 6 => .run
    | 7 => .softreset
    | 0 => .reservedOp0
    | _ => .reservedOp8F (op.extractLsb' 0 3)

/-- Why the decoder refuses some bytes. -/
inductive DecodeError where
  /-- not exactly four bytes: every command is one 32-bit word (R85) -/
  | notOneWord
deriving DecidableEq, Repr

/-- The bytes of a register word, byte lane +0 first: little-endian (R65). -/
def bytesOfWord (v : Word) : List Byte :=
  [v.extractLsb' 0 8, v.extractLsb' 8 8, v.extractLsb' 16 8, v.extractLsb' 24 8]

/-- The register word of four byte lanes, lane +0 first (R65). -/
def wordOfBytes (b0 b1 b2 b3 : Byte) : Word := b3 ++ b2 ++ b1 ++ b0

/-- The decoder on bytes: exactly one 32-bit word (R85), else refused by name. -/
def decode : List Byte → Except DecodeError Instr
  | [b0, b1, b2, b3] => .ok (decodeWord (wordOfBytes b0 b1 b2 b3))
  | _ => .error .notOneWord

/-- The word of a command (R86); for the reserved rows, the word with the bits the term keeps. -/
def encodeWord : Instr → Word
  | .unpack => 0x00000001
  | .measure => 0x00000002
  | .classify => 0x00000003
  | .assemble => 0x00000004
  | .translate => 0x00000005
  | .run => 0x00000006
  | .softreset => 0x00000007
  | .reservedOp0 => 0x00000000
  | .reservedOp8F low => (1#29) ++ low
  | .reservedRsv op rsv => rsv ++ op

/-- The bytes of a command on the register port (R65, R85). -/
def encode (i : Instr) : List Byte := bytesOfWord (encodeWord i)

/-- What the decoder reads from an opcode-table word of `nbits` bits; bits above `nbits` are 0. -/
def decodeTableWord (nbits w : Nat) : Option Instr :=
  if nbits ≤ 32 then
    match decode (bytesOfWord (BitVec.ofNat 32 (w % 2 ^ nbits))) with
    | .ok i => some i
    | .error _ => none
  else none

end Sys2Proof
end

