-- ==== Sys2Proof/Machine/Block.lean ====
section
/-! DEFINITION. The block's own steps in a busy period (R19, R22, R46, R210): one read, or one check, each
(DESIGN CHOICE, safe: assumption 4).
The turns of the loops are those of the command bodies; here only the position between them is kept. -/

namespace Sys2Proof.Machine

/-- One step of `Classify` from the stage `v` of it: the next stage, or the colour (R115; on an exact split of the
window DEDUCED: assumption 26). -/
def voteStep (buf bw off : Nat) (v : Vote) (d : Datapath) : (Vote ⊕ Colour) × Datapath :=
  match v with
  | .first =>
    let (a, d) := slRead buf d
    (.inl (.far a), d)
  | .far a =>
    let (b, d) := slRead (farIndex buf bw off) d
    if a = b then (.inr a, d) else if bw = 0 then (.inr dark, d) else (.inl (.window 0 0 0), d)
  | .window k darks lights =>
    match voteTurn buf bw off k darks lights d with
    | (.decided c, d) => (.inr c, d)
    | (.counted darks lights, d) =>
      if k + 1 < bw then (.inl (.window (k + 1) darks lights), d) else (.inr dark, d)

/-- The segment after `k`, if any (R125). -/
def nextSegment (k : Fin 11) : Option (Fin 11) := if h : k.val + 1 < 11 then some ⟨k.val + 1, h⟩ else none

/-- The start of ASSEMBLE's sampling, from the cursor register (R126). -/
def startSampling (d : Datapath) : Pos := .sample 0 0 0 d.cursor .first

/-- The first position after the configuration check of `op`, or its failure (R103, R112, R117, R126,
R140, R161). -/
def startStep (op : Op) (d : Datapath) : Datapath × Option Pos :=
  let failed : Datapath × Option Pos := (bodyEnd (raise .cfgError d), none)
  match op with
  | .unpack => if imageOk d then (selectRow d, some (.byte 0)) else failed
  | .run => if imageOk d then (selectRow d, some (.byte 0)) else failed
  | .measure => if widthOk d then (d, some (.skip 0)) else failed
  | .classify => if widthOk d then (d, some (.span .first)) else failed
  | .assemble => if widthOk d then (d, some (startSampling d)) else failed
  | .translate => (d, some (.check 0 []))

/-- Where RUN goes on after a phase, and any other command ends (R153). -/
def afterPhase (op : Op) (next : Pos) : Option Pos :=
  match op with
  | .run => some next
  | _ => none

/-- One step of the running command `op` from position `pos`: the datapath after it, and the next position,
or none when the command's body has ended (R22, R103, R112, R117, R126, R140, R153). -/
def posStep (op : Op) (race : Bool) (pos : Pos) (d : Datapath) : Datapath × Option Pos :=
  match pos with
  | .start => startStep op d
  | .byte j =>
    match unpackByte race j d with
    | .error d => (d, none)
    | .ok d => (d, if j + 1 < pixelBytes d then some (.byte (j + 1)) else afterPhase op (.skip 0))
  | .skip p =>
    if p < scanWidth d then
      match readCell p d with
      | (true, d) => (d, some (.skip (p + 1)))
      | (false, d) => (d, some (.count p 1))
    else (d, some (.count p 0))
  | .count p n =>
    if p + n < scanWidth d then
      match readCell (p + n) d with
      | (false, d) => (d, some (.count p (n + 1)))
      | (true, d) => let d := endMeasure p n d; (d, afterPhase op (startSampling d))
    else let d := endMeasure p n d; (d, afterPhase op (startSampling d))
  | .span v =>
    match voteStep d.cursor.toNat d.modw.toNat d.offset.toNat v d with
    | (.inl v, d) => (d, some (.span v))
    | (.inr c, d) => (endClassify c d, none)
  | .sample k m acc c v =>
    match voteStep c.toNat d.modw.toNat d.offset.toNat v d with
    | (.inl v, d) => (d, some (.sample k m acc c v))
    | (.inr x, d) =>
      let acc := shiftIn acc x
      let c := c + d.modw
      if m + 1 < segLen k then (d, some (.sample k (m + 1) acc c .first))
      else
        let d := setCode k acc d
        match nextSegment k with
        | some k => (d, some (.sample k 0 0 c .first))
        | none => ({ d with cursor := c }, afterPhase op (.check 0 []))
  | .check k found =>
    match checkCode k d.codes[k] with
    | .fail r => (endTranslate r found d, none)
    | .pass =>
      match nextSegment k with
      | some k => (d, some (.check k found))
      | none => (endTranslate .ok found d, none)
    | .digit x =>
      match nextSegment k with
      | some k => (d, some (.check k (found ++ [x])))
      | none => (endTranslate .ok (found ++ [x]) d, none)

/-- One step of the block; an idle block waits (R22, R193). The command ends through `finish()` and nothing
else (R150). -/
def blockStep (s : State) : State :=
  match s.seq with
  | .idle => s
  | .busy op pos hz =>
    match posStep op hz.pixRace pos s.dp with
    | (d, some pos) => { s with dp := d, seq := .busy op pos hz }
    | (d, none) => { s with dp := finishFlags hz.raced d, seq := .idle }

end Sys2Proof.Machine
end

