-- ==== Sys2Proof/Machine/Port.lean ====
section
/-! DEFINITION. The host's acts: the register port, idle and busy (R24 to R44, R65 to R70, R200), writes of
pixel memory (R61, R74 (d), R201), the reset input (R190, R194), and whose turn it is (R19, R210). -/

namespace Sys2Proof.Machine

/-- The registers of the window by name (R24). -/
inductive Reg where
  | id | ctrl | cmd | status | offset | width | height | pixbase | rowsel | rowaddr | cursor | modw
  | result | digits | scancap
  /-- `CODEk` -/
  | code (k : Fin 11)
  /-- scanline cell `i` -/
  | sl (i : Nat)
  /-- every other offset: RAZ/WI (R44) -/
  | reserved
deriving DecidableEq, Repr

/-- The offset of the scanline window (R24). -/
def slWindow : Nat := 0x100000

/-- The register at word offset `off` (R24, R44). -/
def regAt (scanMax : Nat) (off : BitVec 23) : Reg :=
  let o := off.toNat
  if slWindow ≤ o then
    if (o - slWindow) / 4 < scanMax then .sl ((o - slWindow) / 4) else .reserved
  else if 0x040 ≤ o then
    if h : (o - 0x040) / 4 < 11 then .code ⟨(o - 0x040) / 4, h⟩ else .reserved
  else
    match o / 4 with
    | 0 => .id
    | 1 => .ctrl
    | 2 => .cmd
    | 3 => .status
    | 4 => .offset
    | 5 => .width
    | 6 => .height
    | 7 => .pixbase
    | 8 => .rowsel
    | 9 => .rowaddr
    | 10 => .cursor
    | 11 => .modw
    | 12 => .result
    | 13 => .digits
    | 14 => .scancap
    | _ => .reserved

/-- The offset of a register (R24); of the reserved offsets, the one after `SCANCAP`. -/
def regOffset : Reg → BitVec 23
  | .id => 0x000
  | .ctrl => 0x004
  | .cmd => 0x008
  | .status => 0x00C
  | .offset => 0x010
  | .width => 0x014
  | .height => 0x018
  | .pixbase => 0x01C
  | .rowsel => 0x020
  | .rowaddr => 0x024
  | .cursor => 0x028
  | .modw => 0x02C
  | .result => 0x030
  | .digits => 0x034
  | .scancap => 0x038
  | .code k => BitVec.ofNat 23 (0x040 + 4 * k.val)
  | .sl i => BitVec.ofNat 23 (slWindow + 4 * i)
  | .reserved => 0x03C

/-- Is the access 32 bits wide and aligned (R67)? Any other access gets the error response, and the machine
goes on (DEDUCED, safe: assumption 11). -/
def shapeOk (off : BitVec 23) (size : Nat) : Bool := decide (size = 4) && decide (off.toNat % 4 = 0)

/-- A bit zero-extended to a word (R43). -/
def bitWord (b : Bool) : Word := if b then 1 else 0

/-- The exact value of a register (R24 to R44), `busy` being `STATUS.BUSY`. An unwritten scanline cell reads
as a draw (R191). -/
def readReg (busy : Bool) (r : Reg) (d : Datapath) : Word × Datapath :=
  match r with
  | .id => (idWord, d)
  | .ctrl => (bitWord d.ie, d)
  | .cmd => (0, d)
  | .status => (statusWord busy d.status, d)
  | .offset => (d.offset.setWidth 32, d)
  | .width => (d.width, d)
  | .height => (d.height, d)
  | .pixbase => (d.pixbase, d)
  | .rowsel => (d.rowsel, d)
  | .rowaddr => (d.rowaddr, d)
  | .cursor => (d.cursor, d)
  | .modw => (d.modw, d)
  | .result => (resultWord d.result, d)
  | .digits => (d.digits, d)
  | .scancap => (BitVec.ofNat 32 d.scanMax, d)
  | .code k => (d.codes[k].setWidth 32, d)
  | .sl i => let (c, d) := readCell i d; (bitWord c, d)
  | .reserved => (0, d)

/-- The bits of register `r`, other than `STATUS`, that the running command may write (R45, R200 (c)): 0 when
it may not. -/
def mayWriteBits (op : Op) (r : Reg) (d : Datapath) : Word :=
  let unpacks : Bool := op = .unpack || op = .run
  let measures : Bool := op = .measure || op = .run
  let assembles : Bool := op = .assemble || op = .run
  let translates : Bool := op = .translate || op = .run
  match r with
  | .rowsel => if unpacks then 0xFFFFFFFF else 0
  | .rowaddr => if unpacks then 0xFFFFFFFF else 0
  | .sl i => if unpacks && decide (i < scanWidth d) then 0x1 else 0
  | .cursor => if measures || assembles then 0xFFFFFFFF else 0
  | .modw => if measures then 0xFFFFFFFF else 0
  | .code _ => if assembles then 0x7F else 0
  | .result => if translates then 0x70F else 0
  | .digits => if translates then 0xFFFFFFFF else 0
  | .id => 0
  | .ctrl => 0
  | .cmd => 0
  | .status => 0
  | .offset => 0
  | .width => 0
  | .height => 0
  | .pixbase => 0
  | .scancap => 0
  | .reserved => 0

/-- `STATUS` as the host reads it in a busy period: `BUSY` 1, `DONE` 0, the fields the command may write
draws, the others exact (R200 (c)). -/
def readStatusBusy (op : Op) (d : Datapath) : Word × Datapath :=
  let w := mayWriteStatus op
  let (oob, d) := drawIf w.oob d.status.oob d
  let (nobar, d) := drawIf w.nobar d.status.nobar d
  let (clsbit, d) := drawIf w.clsbit d.status.clsbit d
  let (cfgerr, d) := drawIf w.cfgerr d.status.cfgerr d
  let (buserr, d) := drawIf w.buserr d.status.buserr d
  let st := { d.status with
    done := false, oob := oob, nobar := nobar, clsbit := clsbit, cfgerr := cfgerr, buserr := buserr }
  (statusWord true st, d)

/-- A host read in a busy period (R200 (c)): what the command may write reads as a draw of the field's
width, every other register as it is. DEDUCED: assumption 14. -/
def readRegBusy (op : Op) (r : Reg) (d : Datapath) : Word × Datapath :=
  if r = .status then readStatusBusy op d
  else if mayWriteBits op r d = 0 then readReg true r d
  else let (w, d) := drawWord d; (w &&& mayWriteBits op r d, d)

/-- The effect of a host write to a register of an idle block, other than `CMD` (R24 to R44, R70): reserved
bits, read-only registers and reserved offsets ignore it. -/
def writeReg (r : Reg) (v : Word) (d : Datapath) : Datapath :=
  match r with
  | .ctrl => { d with ie := v.getLsbD 0 }
  | .status => { d with status := w1cWrite v d.status }
  | .offset => { d with offset := v.extractLsb' 0 8 }
  | .width => { d with width := v }
  | .height => { d with height := v }
  | .pixbase => { d with pixbase := v }
  | .cursor => { d with cursor := v }
  | .modw => { d with modw := v }
  | .code k => setCode k (v.extractLsb' 0 7) d
  | .sl i => writeCell i (v.getLsbD 0) d
  | .id => d
  | .cmd => d
  | .rowsel => d
  | .rowaddr => d
  | .result => d
  | .digits => d
  | .scancap => d
  | .reserved => d

/-- What the turn of the host or of the block gives. -/
inductive TurnResult where
  /-- a next state -/
  | state (s : State)
  /-- a write of `v` to `CMD` that the idle block decodes (R151) -/
  | command (v : Word) (s : State)
  /-- the machine stops -/
  | fault (f : Fault)
deriving DecidableEq, Repr

/-- A register access while the block is idle (R24, R67, R70, R151). -/
def portIdle (off : BitVec 23) (size : Nat) (a : Access) (s : State) : TurnResult :=
  if shapeOk off size then
    match a with
    | .read =>
      let (w, d) := readReg false (regAt s.dp.scanMax off) s.dp
      .state { s with dp := d, resp := .data w }
    | .write v =>
      if regAt s.dp.scanMax off = .cmd then .command v { s with resp := .written }
      else .state { s with dp := writeReg (regAt s.dp.scanMax off) v s.dp, resp := .written }
  else .state { s with resp := .error }

/-- A host write to `STATUS` in a busy period: W1C as ever; a cleared field that the command may write is a
draw after `finish()` (R29, R200 (b)). -/
def statusWriteBusy (op : Op) (pos : Pos) (hz : Hazard) (v : Word) (s : State) : State :=
  { s with
    dp := { s.dp with status := w1cWrite v s.dp.status }
    seq := .busy op pos { hz with raced := hz.raced.union ((w1cFields v).inter (mayWriteStatus op)) } }

/-- A register access in a busy period (R67, R200). -/
def portBusy (op : Op) (pos : Pos) (hz : Hazard) (off : BitVec 23) (size : Nat) (a : Access) (s : State) :
    State :=
  if shapeOk off size then
    match a with
    | .read =>
      let (w, d) := readRegBusy op (regAt s.dp.scanMax off) s.dp
      { s with dp := d, resp := .data w }
    | .write v =>
      if regAt s.dp.scanMax off = .status then { statusWriteBusy op pos hz v s with resp := .written }
      else { busyWrite s with resp := .written }
  else { s with resp := .error }

/-- A register access (R23 (1)). -/
def portAct (off : BitVec 23) (size : Nat) (a : Access) (s : State) : TurnResult :=
  match s.seq with
  | .idle => portIdle off size a s
  | .busy op pos hz => .state (portBusy op pos hz off size a s)

/-- The offset in the register window of an absolute address, if it lies in the window (R66). -/
def busOffset (base addr : Nat) : Option (BitVec 23) :=
  if base ≤ addr ∧ addr < base + 2 ^ 23 then some (BitVec.ofNat 23 (addr - base)) else none

/-- Is the block in UNPACK, or in the UNPACK phase of RUN, before pixel byte `j` (R201)? -/
def unpackAt (op : Op) (pos : Pos) : Option Nat :=
  match op, pos with
  | .unpack, .start => some 0
  | .run, .start => some 0
  | .unpack, .byte j => some j
  | .run, .byte j => some j
  | _, _ => none

/-- A write of one byte of pixel memory (R61, R192). DESIGN CHOICE: assumption 22. -/
def storePixel (addr : Word) (b : Byte) (s : State) : State :=
  { s with dp := { s.dp with mem := sparseSet s.dp.mem addr.toNat b } }

/-- The race of a pixel write with the UNPACK that is at pixel byte `j`: when it hits a pixel byte of the
selected row, every byte read after it is a draw (R201), and so is that byte if it was read already
(R74 (d)). DEDUCED, safe: assumption 15. -/
def racePixel (op : Op) (pos : Pos) (hz : Hazard) (j : Nat) (addr : Word) (s : State) : State :=
  match rowIndex s.dp addr with
  | none => s
  | some i =>
    let s := { s with seq := .busy op pos { hz with pixRace := true } }
    if i < j then
      let (x, d) := drawByte s.dp
      { s with dp := storeByte i x d }
    else s

/-- A write of pixel memory by an agent outside the block (R61, R74 (d), R201). -/
def pixelWrite (addr : Word) (b : Byte) (s : State) : State :=
  match s.seq with
  | .idle => storePixel addr b s
  | .busy op pos hz =>
    match unpackAt op pos with
    | some j => racePixel op pos hz j addr (storePixel addr b s)
    | none => storePixel addr b s

/-- One act of the host. -/
def hostAct (a : HostAct) (s : State) : TurnResult :=
  match a with
  | .port off size acc => portAct off size acc s
  | .bus addr size acc =>
    match busOffset Config.emsdBase addr with
    | some off => portAct off size acc s
    | none => .fault .outsideWindow
  | .pixelWrite addr b => .state (pixelWrite addr b s)
  | .resetInput => .state (resetInput s)

/-- Whose turn it is, and the turn (R19, R210): the host's next act when its moment has come, else the
block's next step. -/
def takeTurn (s : State) : TurnResult :=
  match s.seq, s.host with
  | .idle, [] => .state s
  | .idle, t :: rest => hostAct t.act { s with host := rest }
  | .busy _ _ _, [] => .state (blockStep s)
  | .busy _ _ _, ⟨.whenIdle, _⟩ :: _ => .state (blockStep s)
  | .busy _ _ _, ⟨.after 0, a⟩ :: rest => hostAct a { s with host := rest }
  | .busy _ _ _, ⟨.after (n + 1), a⟩ :: rest =>
    .state (blockStep { s with host := ⟨.after n, a⟩ :: rest })

/-- The write of word `v` to `CMD`, as a turn of the host (R85, R92). -/
def cmdTurn (v : Word) : Turn := ⟨.whenIdle, .port (regOffset .cmd) 4 (.write v)⟩

end Sys2Proof.Machine
end

