-- ==== Sys2Proof/Machine/Step.lean ====
section
/-! DEFINITION. One step of the machine: a turn of the host or of the block, and the meaning of a word that
the idle block takes on `CMD`. -/

namespace Sys2Proof.Machine

/-- One step (R19, R151, R210). -/
def step (s : State) : Host.Outcome State Fault Refusal :=
  match takeTurn s with
  | .state s => .next s
  | .command v s => exec (decodeWord v) s
  | .fault f => .fault f

/-- The write of the word `w` to `CMD` is the host's next act, and the block is idle, so that the next step
decodes and runs it. Bits above `nbits` are 0. -/
def State.withFetchWord (s : State) (nbits w : Nat) : State :=
  { s with seq := .idle, host := cmdTurn (BitVec.ofNat 32 (w % 2 ^ nbits)) :: s.host }

end Sys2Proof.Machine
end

