-- ==== Sys2Proof/Safety.lean ====
section
/-! DEFINITION. What counts as a good state and a safe run, in the terms the claims use. -/

namespace Sys2Proof.Machine

/-- The block is idle and no act of the host lands in a busy period that begins now: a command runs whole
(R150, R151, R152). -/
def Ready (s : State) : Prop := s.seq = .idle ∧ undisturbed s = true

/-- The command word's instruction of a command that has a busy period (R22, R86). -/
def Op.instr : Op → Instr
  | .unpack => .unpack
  | .measure => .measure
  | .classify => .classify
  | .assemble => .assemble
  | .translate => .translate
  | .run => .run

/-- The body of a command that has a busy period. -/
def Op.body : Op → Body
  | .unpack => unpackBody
  | .measure => measureBody
  | .classify => classifyBody
  | .assemble => assembleBody
  | .translate => translateBody
  | .run => runBody

/-- Nibble `j` of `DIGITS`, digit position `j` (R40). -/
def digitAt (w : Word) (j : Nat) : Nat := (w.extractLsb' (28 - 4 * j) 4).toNat

/-- `DIGITS` holds eight decimal digits when `RCODE` is OK and no digits otherwise (R40). -/
def digitsOk (d : Datapath) : Bool :=
  if d.result = .ok then (List.range 8).all fun j => decide (digitAt d.digits j ≤ 9)
  else d.digits = noDigits

/-- A stage of `Classify` over a span of `bw` pixels: in the vote, the counts are those of the pixels read
and neither is a strict majority (R115, R46). -/
def voteOk (bw : Nat) : Vote → Bool
  | .first => true
  | .far _ => true
  | .window k darks lights =>
    decide (k < bw) && decide (darks + lights = k) && decide (darks ≤ bw / 2) && decide (lights ≤ bw / 2)

/-- How many digits TRANSLATE has found before the check of `CODE[k]` (R140). -/
def digitsBefore (k : Fin 11) : Nat := if k.val ≤ 5 then k.val - 1 else k.val - 2

/-- A position belongs to the running command, and its indices lie where the pseudocode puts them
(R22, R46, R103, R112, R115, R126, R140). -/
def posOk (op : Op) (pos : Pos) (d : Datapath) : Bool :=
  match pos with
  | .start => true
  | .byte j =>
    (op = .unpack || op = .run) && imageOk d && decide (j < pixelBytes d) &&
      d.rowsel == BitVec.ofNat 32 (logicalRow d) && d.rowaddr == rowAddress d
  | .skip p => (op = .measure || op = .run) && widthOk d && decide (p ≤ scanWidth d)
  | .count p n =>
    (op = .measure || op = .run) && widthOk d && decide (p + n ≤ scanWidth d) &&
      (decide (0 < n) || decide (p = scanWidth d))
  | .span v => op = .classify && widthOk d && voteOk d.modw.toNat v
  | .sample k m acc _ v =>
    (op = .assemble || op = .run) && widthOk d && decide (m < segLen k) && decide (acc.toNat < 2 ^ m) &&
      voteOk d.modw.toNat v
  | .check k found => (op = .translate || op = .run) && decide (found.length = digitsBefore k)

/-- What a busy period leaves open belongs to the running command (R200 (b), R201), and `DONE` is 0 in it
(R151, R200 (c)). -/
def seqOk (s : State) : Bool :=
  match s.seq with
  | .idle => true
  | .busy op pos hz =>
    posOk op pos s.dp && !s.dp.status.done && decide (hz.raced.inter (mayWriteStatus op) = hz.raced) &&
      (!hz.pixRace || op = .unpack || op = .run)

/-- The invariant of the machine: both storages in canonical form (R43, R60), `RESULT` and `DIGITS` agree
(R40), and the sequencer state is one the pseudocode can be in (R22, R46). -/
structure Inv (s : State) : Prop where
  mem    : Memory.wf s.dp.mem = true
  sl     : Scanline.wf s.dp.scanMax s.dp.sl = true
  digits : digitsOk s.dp = true
  seq    : seqOk s = true

/-- Every act of the host still to come reaches EMSD: none is by an absolute address outside the register
window (R66). -/
def hostInWindow (s : State) : Prop :=
  ∀ t ∈ s.host, ∀ addr size a, t.act = .bus addr size a → busOffset Config.emsdBase addr ≠ none

/-- A step of the machine gives a next state. -/
def Progresses (s : State) : Prop := ∃ t, step s = .next t

/-- `n` steps of the machine from `s` give `t`. -/
def Reaches (n : Nat) (s t : State) : Prop := Sys2Proof.core.run n s = .next t

/-- The scanline cells `[0, W)` are written and hold the pixels `px` (R43, R104). -/
def HoldsPixels (d : Datapath) (px : List Colour) : Prop :=
  px.length = scanWidth d ∧ ∀ i, (h : i < px.length) → sparseGet d.sl i = some px[i]

/-- Address of pixel byte `j` of the selected row (R102, R103). -/
def rowByte (d : Datapath) (j : Nat) : Word := rowAddress d + BitVec.ofNat 32 j

/-- The pixel bytes `[0, n)` of the selected row answer without error and hold `bytes` (R62, R103). -/
def RowHolds (d : Datapath) (n : Nat) (bytes : Nat → Byte) : Prop :=
  ∀ j < n, pixelError d.errs (rowByte d j) = false ∧ sparseGet d.mem (rowByte d j).toNat = some (bytes j)

/-- Pixel `x` of a row that holds `bytes`: bit `7 - (x mod 8)` of byte `x div 8` (R64). -/
def rowPixel (bytes : Nat → Byte) (x : Nat) : Colour := (bytes (x / 8)).getLsbD (7 - x % 8)

/-- The first module of segment `k` among the 67 (R125). -/
def segStart (k : Fin 11) : Nat := [0, 3, 10, 17, 24, 31, 36, 43, 50, 57, 64].getD k.val 0

/-- The module count of segment `k`, `SEGLEN[k]`, as R125's table has it. -/
def segCount (k : Fin 11) : Nat := [3, 7, 7, 7, 7, 5, 7, 7, 7, 7, 3].getD k.val 0

/-- The code of the `n` modules from `start` on, the first in the most significant bit (R12, R17). -/
def codeOf (modules : Nat → Colour) (start n : Nat) : Code :=
  BitVec.ofNat 7 ((List.range n).map fun m => if modules (start + m) then 2 ^ (n - 1 - m) else 0).sum

/-- The eleven codes of 67 modules (R125, R127). -/
def codesOf (modules : Nat → Colour) : Vector Code 11 :=
  Vector.ofFn fun k => codeOf modules (segStart k) (segCount k)

/-- Index `i` lies in the row, `[0, W)` (R110). -/
def InRow (d : Datapath) (i : Int) : Prop := 0 ≤ i ∧ i < d.width.toInt

/-- The start pixel and the far sample of the span at `buf` lie in the row (R114, R115). -/
def SamplesInRow (d : Datapath) (buf : Nat) : Prop :=
  InRow d buf ∧ InRow d ((buf : Int) + d.modw.toNat - d.offset.toNat - 1)

/-- Every window pixel of the span at `buf` lies in the row (R114, R115). -/
def WindowInRow (d : Datapath) (buf : Nat) : Prop :=
  ∀ k < d.modw.toNat, InRow d ((buf : Int) - d.offset.toNat + k)

/-- The cell of the far sample of the span at `buf`, where it lies in the row (R114). -/
def farCell (d : Datapath) (buf : Nat) : Nat := buf + d.modw.toNat - d.offset.toNat - 1

/-- The start pixel and the far sample of the span at `buf` are written, and hold `a` and `b` (R115). -/
def SamplesHold (d : Datapath) (buf : Nat) (a b : Colour) : Prop :=
  sparseGet d.sl buf = some a ∧ sparseGet d.sl (farCell d buf) = some b

/-- `Classify` on the pixels `px` of a row, every read being in range: the two samples where they agree, else the
strict majority of the window, and dark where there is none (R115, R116 (a), (b); assumption 26). -/
def classifyPixels (px : List Colour) (buf bw off : Nat) : Colour :=
  let a := px.getD buf dark
  if a = px.getD (buf + bw - off - 1) dark then a
  else decide (bw / 2 < ((px.drop (buf - off)).take bw).count light)

/-- `Classify` at `buf` reads nothing outside the row whose pixels are `px`: the samples lie in it, and so does the
window where the samples differ (R115). -/
def ClassifyInRow (d : Datapath) (px : List Colour) (buf : Nat) : Prop :=
  SamplesInRow d buf ∧
    (px.getD buf dark = px.getD (buf + d.modw.toNat - d.offset.toNat - 1) dark ∨ WindowInRow d buf)

/-- Where ASSEMBLE classifies module `q`: `(c0 + q * bw) mod 2^32` (R129). -/
def moduleStart (d : Datapath) (q : Nat) : Nat := (d.cursor.toNat + q * d.modw.toNat) % 2 ^ 32

/-- The scanline holds, from the cursor on, 67 modules of `MODW` pixels each, inside `[0, W)` (R127, R206). -/
def HoldsSymbol (d : Datapath) (modules : Nat → Colour) : Prop :=
  d.cursor.toNat + 67 * d.modw.toNat ≤ scanWidth d ∧
    ∀ q < 67, ∀ t < d.modw.toNat, sparseGet d.sl (d.cursor.toNat + q * d.modw.toNat + t) = some (modules q)

/-- The codes of a valid EAN-8 symbol for eight digits (R135 to R139). -/
def symbolCodes (ds : Vector (Fin 10) 8) : Vector Code 11 :=
  Vector.ofFn fun k =>
    match k.val with
    | 0 => startGuard
    | 1 => digitTables.1.getD ds[0].val 0
    | 2 => digitTables.1.getD ds[1].val 0
    | 3 => digitTables.1.getD ds[2].val 0
    | 4 => digitTables.1.getD ds[3].val 0
    | 5 => dividerGuard
    | 6 => digitTables.2.getD ds[4].val 0
    | 7 => digitTables.2.getD ds[5].val 0
    | 8 => digitTables.2.getD ds[6].val 0
    | 9 => digitTables.2.getD ds[7].val 0
    | _ => stopGuard

/-- The line `if CODE[k] != want: fail(...)` of TRANSLATE (R140, R144). -/
def requireCode (v want : Code) (r : Result) : Except Result Unit := if v = want then .ok () else .error r

/-- The line `d <- Lookup(T, CODE[k])` of TRANSLATE, with its failure (R140, R141). -/
def requireDigit (table : List Code) (v : Code) (p : Fin 8) : Except Result (Fin 10) :=
  match lookup table v with
  | some x => .ok x
  | none => .error (.invalidDigitError p)

/-- TRANSLATE's checks line by line, in list order (R140, R142): the digits, or the result of the first
failing check. -/
def translateRule (codes : Vector Code 11) : Except Result (List (Fin 10)) := do
  requireCode codes[0] 2 .startGuardError
  let d0 ← requireDigit digitTables.1 codes[1] 0
  let d1 ← requireDigit digitTables.1 codes[2] 1
  let d2 ← requireDigit digitTables.1 codes[3] 2
  let d3 ← requireDigit digitTables.1 codes[4] 3
  requireCode codes[5] 21 .dividerError
  let d4 ← requireDigit digitTables.2 codes[6] 4
  let d5 ← requireDigit digitTables.2 codes[7] 5
  let d6 ← requireDigit digitTables.2 codes[8] 6
  let d7 ← requireDigit digitTables.2 codes[9] 7
  requireCode codes[10] 2 .stopGuardError
  return [d0, d1, d2, d3, d4, d5, d6, d7]

/-- The bits of a register, other than `CMD` and `STATUS`, that a host write to an idle block stores
(R24 to R44). -/
def writableBits : Reg → Word
  | .ctrl => 0x00000001
  | .offset => 0x000000FF
  | .width => 0xFFFFFFFF
  | .height => 0xFFFFFFFF
  | .pixbase => 0xFFFFFFFF
  | .cursor => 0xFFFFFFFF
  | .modw => 0xFFFFFFFF
  | .code _ => 0x0000007F
  | .sl _ => 0x00000001
  | .id => 0
  | .cmd => 0
  | .status => 0
  | .rowsel => 0
  | .rowaddr => 0
  | .result => 0
  | .digits => 0
  | .scancap => 0
  | .reserved => 0

/-- R45's row of one stage: the bits of the registers it may write, `STATUS` apart, with `w` cells in the row. -/
def stageBits (w : Nat) (r : Reg) : Op → Word
  | .unpack =>
    match r with
    | .sl i => if i < w then 0x1 else 0
    | .rowsel => 0xFFFFFFFF
    | .rowaddr => 0xFFFFFFFF
    | _ => 0
  | .measure => if r = .cursor ∨ r = .modw then 0xFFFFFFFF else 0
  | .classify => 0
  | .assemble =>
    match r with
    | .code _ => 0x7F
    | .cursor => 0xFFFFFFFF
    | _ => 0
  | .translate => if r = .result then 0x70F else if r = .digits then 0xFFFFFFFF else 0
  | .run => 0

/-- R45's row of a command: the stage's, and for RUN the union of its four stages' (R45, R200 (c)). -/
def rowBits (w : Nat) (r : Reg) (op : Op) : Word :=
  if op = .run then
    stageBits w r .unpack ||| stageBits w r .measure ||| stageBits w r .assemble ||| stageBits w r .translate
  else stageBits w r op

/-- The pixel bytes `[0, n)` of the selected row all answer without error (R62, R162). -/
def rowReadable (d : Datapath) (n : Nat) : Prop := ∀ j < n, pixelError d.errs (rowByte d j) = false

/-- `bytes` are the pixel bytes `[0, n)` of the row where they were written; elsewhere they are free. -/
def rowAgrees (d : Datapath) (n : Nat) (bytes : Nat → Byte) : Prop :=
  ∀ j < n, ∀ b, sparseGet d.mem (rowByte d j).toNat = some b → bytes j = b

/-- The pixel bytes `[0, n)` of the row were all written, so that no read of them is a draw. -/
def rowWritten (d : Datapath) (n : Nat) : Prop := ∀ j < n, sparseGet d.mem (rowByte d j).toNat ≠ none

end Sys2Proof.Machine
end

