-- ==== Sys2Proof/Certificates/Slice0/Obligations.lean ====
section
/-! DEFINITION. The statements about EMSD that the provers settle. Where a next state is written out in full,
it is also the frame: every field not named in the update is unchanged. `pixReads := []` in one is the trace
of the pixel-memory port, the model's own record (assumption 16), which a command starts anew. -/

open Sys2Proof Sys2Proof.Machine

/-! ## Decoding and encoding -/

/-- Words written out from R86 decode to their commands, byte lane +0 first (R65). -/
def Obligations.KnownWordsDecode : Prop :=
  decode [0x01, 0x00, 0x00, 0x00] = .ok .unpack ∧
  decode [0x04, 0x00, 0x00, 0x00] = .ok .assemble ∧
  decode [0x07, 0x00, 0x00, 0x00] = .ok .softreset ∧
  decode [0x00, 0x00, 0x00, 0x00] = .ok .reservedOp0 ∧
  decode [0x0F, 0x00, 0x00, 0x00] = .ok (.reservedOp8F 7) ∧
  decode [0x16, 0x00, 0x00, 0x00] = .ok (.reservedRsv 6 1) ∧
  decode [0x01, 0x00, 0x00, 0x80] = .ok (.reservedRsv 1 0x8000000) ∧
  decode [0x01, 0x00] = .error .notOneWord

/-- Decoding the encoding of a well-formed instruction gives it back (R85, R86, R89). -/
def Obligations.DecodeOfEncode : Prop :=
  ∀ i : Instr, i.wellFormed = true → decode (encode i) = .ok i

/-- Every word decodes, to a well-formed instruction whose encoding is that word: no bit is dropped
(R85, R89). -/
def Obligations.EncodeOfDecode : Prop :=
  ∀ v : Word, decode (bytesOfWord v) = .ok (decodeWord v) ∧ (decodeWord v).wellFormed = true ∧
    encodeWord (decodeWord v) = v

/-- R89, whole: a word is one of the seven commands exactly when RSV is 0 and OP is its number; every other
word is illegal. -/
def Obligations.DecodeFollowsOpcodeMap : Prop :=
  ∀ v : Word,
    (v.extractLsb' 4 28 ≠ 0 → (decodeWord v).illegal = true) ∧
    (v.extractLsb' 4 28 = 0 →
      (v.extractLsb' 0 4 = 0x1 → decodeWord v = .unpack) ∧
      (v.extractLsb' 0 4 = 0x2 → decodeWord v = .measure) ∧
      (v.extractLsb' 0 4 = 0x3 → decodeWord v = .classify) ∧
      (v.extractLsb' 0 4 = 0x4 → decodeWord v = .assemble) ∧
      (v.extractLsb' 0 4 = 0x5 → decodeWord v = .translate) ∧
      (v.extractLsb' 0 4 = 0x6 → decodeWord v = .run) ∧
      (v.extractLsb' 0 4 = 0x7 → decodeWord v = .softreset) ∧
      (v.extractLsb' 0 4 = 0x0 → (decodeWord v).illegal = true) ∧
      (0x8 ≤ v.extractLsb' 0 4 → (decodeWord v).illegal = true))

/-- A step runs the decoded command word: when the host's next act is an aligned 32-bit write of `v` to `CMD`
and the block is idle, the step is the meaning of the instruction that the bytes of `v` decode to, on the
state from which that act is taken and answered (R77, R85, R151). -/
def Obligations.StepRunsDecodedCommand : Prop :=
  ∀ (s : State) (m : Moment) (v : Word) (rest : List Turn) (i : Instr),
    s.seq = .idle → s.host = ⟨m, .port (regOffset .cmd) 4 (.write v)⟩ :: rest →
    decode (bytesOfWord v) = .ok i →
    step s = exec i { s with host := rest, resp := .written }

/-! ## Reset -/

/-- R190 whole: after power-on and after the reset input, the block is idle (a running command is abandoned),
`IRQ` is 0 and every register reads its value of the table, no scanline cell being specified; SOFTRESET leaves
the same register values and keeps the scanline. -/
def Obligations.ResetRegisterValues : Prop :=
  (∀ s : State, (s = State.reset ∨ ∃ s', s = resetInput s') →
    s.seq = .idle ∧ irq s = false ∧
    (readReg false .id s.dp).1 = 0x45380001 ∧
    (readReg false .ctrl s.dp).1 = 0x00000000 ∧
    (readReg false .cmd s.dp).1 = 0x00000000 ∧
    (readReg false .status s.dp).1 = 0x00000000 ∧
    (readReg false .offset s.dp).1 = 0x00000002 ∧
    (readReg false .width s.dp).1 = 0x00000000 ∧
    (readReg false .height s.dp).1 = 0x00000000 ∧
    (readReg false .pixbase s.dp).1 = 0x00000000 ∧
    (readReg false .rowsel s.dp).1 = 0x00000000 ∧
    (readReg false .rowaddr s.dp).1 = 0x00000000 ∧
    (readReg false .cursor s.dp).1 = 0x00000000 ∧
    (readReg false .modw s.dp).1 = 0x00000000 ∧
    (readReg false .result s.dp).1 = 0x00000000 ∧
    (readReg false .digits s.dp).1 = 0xFFFFFFFF ∧
    (readReg false .scancap s.dp).1.toNat = s.dp.scanMax ∧
    (∀ k, (readReg false (.code k) s.dp).1 = 0x00000000) ∧
    (∀ i, sparseGet s.dp.sl i = none)) ∧
  ∀ s : State, s.seq = .idle → ∃ t, exec .softreset s = .next t ∧ t.seq = .idle ∧ irq t = false ∧
    t.dp.sl = s.dp.sl ∧
    ∀ r, (∀ i, r ≠ .sl i) → (readReg false r t.dp).1 = (readReg false r (resetInput s).dp).1

/-- The reset input, whatever the block is doing: the running command is abandoned without `finish()`, every
register takes its reset value, the scanline becomes unspecified, pixel memory stays (R190, R191, R192,
R194). -/
def Obligations.ResetInputAbandonsCommand : Prop :=
  ∀ (s : State) (m : Moment) (rest : List Turn),
    s.host = ⟨m, .resetInput⟩ :: rest → (s.seq = .idle ∨ m = .after 0) →
    step s = .next { s with
      host := rest
      seq := .idle
      dp := { s.dp with
        ie := false, status := {}, offset := 2, width := 0, height := 0, pixbase := 0, rowsel := 0
        rowaddr := 0, cursor := 0, modw := 0, result := .none, digits := 0xFFFFFFFF
        codes := Vector.replicate 11 0, sl := [] } }

/-- The state after power-on meets the invariant that every step keeps. -/
def Obligations.ResetMeetsInvariant : Prop := Inv State.reset

/-! ## UNPACK -/

/-- The geometry of the selected row: R100, R101, R102, whole. -/
def Obligations.SelectedRowGeometry : Prop :=
  ∀ d : Datapath, widthOk d = true → d.height ≠ 0 →
    let r := d.height.toInt.natAbs / 2
    let s := if 0 < d.height.toInt then d.height.toInt.natAbs - 1 - r else r
    logicalRow d = r ∧ r ≤ d.height.toInt.natAbs - 1 ∧ (d.height.toInt.natAbs = 1 → r = 0) ∧
    storedRow d = s ∧
    (∀ n, d.height.toInt.natAbs = 2 * n + 1 → s = n) ∧
    (∀ n, d.height.toInt.natAbs = 2 * n → s = if 0 < d.height.toInt then n - 1 else n) ∧
    stride d = 4 * ((d.width.toInt.toNat + 31) / 32) ∧ stride d ≤ 2 ^ 17 + 4 ∧
    (rowAddress d).toNat = (d.pixbase.toNat + s * stride d) % 2 ^ 32

/-- UNPACK, when its configuration check passes and no pixel byte of the row answers with an error: it selects
the row, reads its pixel bytes once each in increasing order, and unpacks them most significant bit first into
`SL[0]` to `SL[W-1]`; every other cell and every other register is unchanged (R61, R64, R71, R103, R104). -/
def Obligations.UnpackFillsScanline : Prop :=
  ∀ s : State, Ready s → imageOk s.dp = true → rowReadable s.dp (pixelBytes s.dp) →
    ∃ bytes sl n, rowAgrees s.dp (pixelBytes s.dp) bytes ∧
      (rowWritten s.dp (pixelBytes s.dp) → n = s.dp.draws) ∧
      s.dp.draws ≤ n ∧ n ≤ s.dp.draws + pixelBytes s.dp ∧
      exec .unpack s = .next { s with dp := { s.dp with
        rowsel := BitVec.ofNat 32 (logicalRow s.dp)
        rowaddr := rowAddress s.dp
        sl := sl
        pixReads := (List.range (pixelBytes s.dp)).map (rowByte s.dp)
        draws := n
        status := { s.dp.status with done := true } } } ∧
      ∀ x, sparseGet sl x = if x < scanWidth s.dp then some (rowPixel bytes x) else sparseGet s.dp.sl x

/-- BusError (R162): at the first pixel byte that answers with an error, UNPACK, alone or as RUN's first
phase, sets `BUSERR` and ends; `ROWSEL`, `ROWADDR` and the cells of the bytes read before hold their new
values, and nothing else has changed but `DONE`: no later phase ran. That the trace of the port ends with the
failing address rests on R71, R103 and assumption 16, and the draws of unwritten bytes on assumption 7. -/
def Obligations.BusErrorKeepsPartialRow : Prop :=
  ∀ (s : State) (j : Nat), Ready s → imageOk s.dp = true → j < pixelBytes s.dp → rowReadable s.dp j →
    pixelError s.dp.errs (rowByte s.dp j) = true →
    ∃ bytes sl n, rowAgrees s.dp j bytes ∧ (rowWritten s.dp j → n = s.dp.draws) ∧
      (∀ op, (op = Op.unpack ∨ op = Op.run) →
        exec op.instr s = .next { s with dp := { s.dp with
          rowsel := BitVec.ofNat 32 (logicalRow s.dp)
          rowaddr := rowAddress s.dp
          sl := sl
          pixReads := (List.range (j + 1)).map (rowByte s.dp)
          draws := n
          status := { s.dp.status with buserr := true, done := true } } }) ∧
      ∀ x, sparseGet sl x = if x < 8 * j then some (rowPixel bytes x) else sparseGet s.dp.sl x

/-- UNPACK and RUN depend on no byte of pixel memory but the pixel bytes of the selected row (R61). -/
def Obligations.OnlyRowBytesMatter : Prop :=
  ∀ (s t : State) (op : Op) (mem : Memory), (op = .unpack ∨ op = .run) → Ready s →
    (∀ j < pixelBytes s.dp, sparseGet mem (rowByte s.dp j).toNat = sparseGet s.dp.mem (rowByte s.dp j).toNat) →
    exec op.instr s = .next t →
    exec op.instr { s with dp := { s.dp with mem := mem } } =
      .next { t with dp := { t.dp with mem := mem } }

/-! ## MEASURE and CLASSIFY -/

/-- `SLRead` (R110): a written cell inside `[0, W)` reads as its value; a read outside, also of a cell
that exists, is a draw and sets `OOB`; neither stops. An unwritten cell inside reads as a draw without `OOB`
(R191, assumption 6). -/
def Obligations.ScanlineReadRule : Prop :=
  ∀ (d : Datapath) (i : Int),
    (∀ c, 0 ≤ i → i < d.width.toInt → sparseGet d.sl i.toNat = some c → slRead i d = (c, d)) ∧
    (0 ≤ i → i < d.width.toInt → sparseGet d.sl i.toNat = none →
      slRead i d = (Config.freeBit d.draws, { d with draws := d.draws + 1 })) ∧
    ((i < 0 ∨ d.width.toInt ≤ i) →
      slRead i d = (Config.freeBit d.draws,
        { d with status := { d.status with oob := true }, draws := d.draws + 1 }))

/-- MEASURE on a written scanline: `CURSOR` is the length of the leading light run, `MODW` the length of the
dark run after it, `NOBAR` tells an all-light scanline, and nothing else changes but `DONE` (R111, R112,
R113). -/
def Obligations.MeasureFindsFirstBar : Prop :=
  ∀ (s : State) (px : List Colour), Ready s → widthOk s.dp = true → HoldsPixels s.dp px →
    let p := (px.takeWhile (· == light)).length
    let n := ((px.drop p).takeWhile (· == dark)).length
    exec .measure s = .next { s with dp := { s.dp with
      cursor := BitVec.ofNat 32 p
      modw := BitVec.ofNat 32 n
      pixReads := []
      status := { s.dp.status with nobar := decide (n = 0), done := true } } } ∧
    (n = 0 ↔ ∀ c ∈ px, c = light)

/-- MEASURE on any scanline, also with unwritten cells, which read as draws: it completes, the cursor and the
width lie inside the scanline, no bar means that the cursor is at its end, no more than `W` cells are drawn, and
`OOB` is never touched (R112, R191, R211; assumptions 6 and 25). -/
def Obligations.MeasureAlwaysCompletes : Prop :=
  ∀ s : State, Ready s → widthOk s.dp = true →
    ∃ p n k, p + n ≤ scanWidth s.dp ∧ (n = 0 ↔ p = scanWidth s.dp) ∧ s.dp.draws ≤ k ∧
      k ≤ s.dp.draws + scanWidth s.dp ∧
      exec .measure s = .next { s with dp := { s.dp with
        cursor := BitVec.ofNat 32 p
        modw := BitVec.ofNat 32 n
        pixReads := []
        draws := k
        status := { s.dp.status with nobar := decide (n = 0), done := true } } }

/-- CLASSIFY, whatever it reads: it completes, writes `CLSBIT` and `DONE`, draws no more than `2 + bw` values, and
changes nothing else but `OOB`, which is 1 when the start pixel or the far sample lies outside `[0, W)` and as
before when both and the window lie inside. When the two samples lie inside, `OOB` is set exactly when they differ
and the window leaves the row; an unwritten sample is a draw. The window ends at the far sample, so it can leave
the row at its first pixel alone, below index 0 (R116 (g)): no majority comes before that read
(R110, R115, R117, R211; assumption 6). -/
def Obligations.ClassifyAlwaysCompletes : Prop :=
  ∀ s : State, Ready s → widthOk s.dp = true →
    ∃ c o n, (s.dp.status.oob = true → o = true) ∧ s.dp.draws ≤ n ∧ n ≤ s.dp.draws + (2 + s.dp.modw.toNat) ∧
      (¬ SamplesInRow s.dp s.dp.cursor.toNat → o = true) ∧
      (SamplesInRow s.dp s.dp.cursor.toNat → WindowInRow s.dp s.dp.cursor.toNat → o = s.dp.status.oob) ∧
      (let start := sparseGet s.dp.sl s.dp.cursor.toNat
        let far := sparseGet s.dp.sl (farCell s.dp s.dp.cursor.toNat)
        let a := start.getD (Config.freeBit s.dp.draws)
        let b := far.getD (Config.freeBit (if start = none then s.dp.draws + 1 else s.dp.draws))
        SamplesInRow s.dp s.dp.cursor.toNat →
          (o = true ↔ s.dp.status.oob = true ∨ a ≠ b ∧ ¬ WindowInRow s.dp s.dp.cursor.toNat)) ∧
      exec .classify s = .next { s with dp := { s.dp with
        pixReads := []
        draws := n
        status := { s.dp.status with clsbit := c, oob := o, done := true } } }

/-- CLASSIFY with every read in range, the window's where the samples differ, and written: the two boundary
samples when they agree, else the strict majority of the window, and dark when there is none; no draw, no `OOB`
(R115, R116 (a)). An exact split is dark (R116 (b); against R118 (b) and (d), assumption 26). A span of no pixels
is among them: its window is empty, so the colour is dark unless the two samples agree (R116 (d)). -/
def Obligations.ClassifyIsMajority : Prop :=
  ∀ (s : State) (px : List Colour), Ready s → widthOk s.dp = true → HoldsPixels s.dp px →
    let buf := s.dp.cursor.toNat
    let bw := s.dp.modw.toNat
    let off := s.dp.offset.toNat
    off < buf + bw → buf < px.length → buf + bw - off ≤ px.length →
    let a := px.getD buf dark
    let b := px.getD (buf + bw - off - 1) dark
    (a = b ∨ off ≤ buf) →
    let window := (px.drop (buf - off)).take bw
    exec .classify s = .next { s with dp := { s.dp with
      pixReads := []
      status := { s.dp.status with
        clsbit := if a = b then a else decide (bw / 2 < window.count light)
        done := true } } }

/-- Noise tolerance, R118 (c): when the `off` pixels before the span have the module's colour, up to
`bw - bw div 2 - 1` wrong pixels among the first `bw - off` of the span do no harm, unless both boundary
samples are wrong. -/
def Obligations.ClassifyToleratesNoise : Prop :=
  ∀ (s : State) (px : List Colour) (c : Colour), Ready s → widthOk s.dp = true → HoldsPixels s.dp px →
    let buf := s.dp.cursor.toNat
    let bw := s.dp.modw.toNat
    let off := s.dp.offset.toNat
    off + 1 ≤ bw → off ≤ buf → buf + bw ≤ px.length →
    (∀ x, buf - off ≤ x → x < buf → px.getD x dark = c) →
    ((px.drop buf).take (bw - off)).count (!c) ≤ bw - bw / 2 - 1 →
    (px.getD buf dark = c ∨ px.getD (buf + bw - off - 1) dark = c) →
    exec .classify s = .next { s with dp := { s.dp with
      pixReads := [], status := { s.dp.status with clsbit := c, done := true } } }

/-- MEASURE, CLASSIFY and ASSEMBLE never use a cell at or above `W`, even one that exists (R110, R112). -/
def Obligations.CellsBeyondWidthNeverMatter : Prop :=
  ∀ (s t : State) (op : Op) (sl : Scanline), (op = .measure ∨ op = .classify ∨ op = .assemble) → Ready s →
    (∀ i < scanWidth s.dp, sparseGet sl i = sparseGet s.dp.sl i) → exec op.instr s = .next t →
    exec op.instr { s with dp := { s.dp with sl := sl } } = .next { t with dp := { t.dp with sl := sl } }

/-! ## ASSEMBLE -/

/-- ASSEMBLE, whatever it reads: it completes; the eleven codes fit their segments, `CURSOR` moves by 67 module
widths modulo 2^32, no more than `67 * (2 + bw)` values are drawn, and nothing else changes but `DONE` and `OOB`,
which is 1 when the start pixel or the far sample of some module lies outside `[0, W)`, or its samples differ and
its window leaves the row, and as before when every module's samples lie inside and agree or its window lies
inside (R110, R115, R126, R128, R129, R130, R211). -/
def Obligations.AssembleAlwaysCompletes : Prop :=
  ∀ s : State, Ready s → widthOk s.dp = true →
    ∃ codes o n, (s.dp.status.oob = true → o = true) ∧ s.dp.draws ≤ n ∧
      n ≤ s.dp.draws + 67 * (2 + s.dp.modw.toNat) ∧
      ((∃ q < 67, ¬ SamplesInRow s.dp (moduleStart s.dp q)) → o = true) ∧
      ((∃ q < 67, ∃ a, SamplesHold s.dp (moduleStart s.dp q) a (!a) ∧ ¬ WindowInRow s.dp (moduleStart s.dp q)) →
        o = true) ∧
      ((∀ q < 67, SamplesInRow s.dp (moduleStart s.dp q) ∧
          ((∃ a, SamplesHold s.dp (moduleStart s.dp q) a a) ∨ WindowInRow s.dp (moduleStart s.dp q))) →
        o = s.dp.status.oob) ∧
      (∀ k : Fin 11, codes[k].toNat < 2 ^ segCount k) ∧
      exec .assemble s = .next { s with dp := { s.dp with
        codes := codes
        cursor := BitVec.ofNat 32 (s.dp.cursor.toNat + 67 * s.dp.modw.toNat)
        pixReads := []
        draws := n
        status := { s.dp.status with oob := o, done := true } } }

/-- ASSEMBLE on any written scanline, noisy or not: the bit of each module whose reads lie in `[0, W)` is the
`Classify` result at `(c0 + q * bw) mod 2^32`, most significant bit first in its segment's code, whatever the
other modules read; `OOB` is set exactly when a read of some module lies outside, and when the reads of all 67 lie
inside nothing is drawn (R110, R115, R126, R129). An exact split of a window is dark (assumption 26). -/
def Obligations.AssembleReadsEachModule : Prop :=
  ∀ (s : State) (px : List Colour), Ready s → widthOk s.dp = true → HoldsPixels s.dp px →
    ∃ codes o n,
      exec .assemble s = .next { s with dp := { s.dp with
        codes := codes
        cursor := BitVec.ofNat 32 (s.dp.cursor.toNat + 67 * s.dp.modw.toNat)
        pixReads := []
        draws := n
        status := { s.dp.status with oob := o, done := true } } } ∧
      (∀ (k : Fin 11) (m : Nat), m < segCount k →
        let buf := moduleStart s.dp (segStart k + m)
        ClassifyInRow s.dp px buf →
        codes[k].getLsbD (segCount k - 1 - m) = classifyPixels px buf s.dp.modw.toNat s.dp.offset.toNat) ∧
      (o = true ↔ s.dp.status.oob = true ∨ ∃ q < 67, ¬ ClassifyInRow s.dp px (moduleStart s.dp q)) ∧
      ((∀ q < 67, ClassifyInRow s.dp px (moduleStart s.dp q)) → n = s.dp.draws)

/-- ASSEMBLE on a clean symbol (R127): with modules of `MODW >= OFFSET.VAL + 1` pixels of one colour each, all
inside `[0, W)`, the eleven codes are the module colours, read most significant bit first; no read is out of
range and none is a draw. -/
def Obligations.AssembleReadsCleanSymbol : Prop :=
  ∀ (s : State) (modules : Nat → Colour), Ready s → widthOk s.dp = true →
    s.dp.offset.toNat + 1 ≤ s.dp.modw.toNat → HoldsSymbol s.dp modules →
    exec .assemble s = .next { s with dp := { s.dp with
      codes := codesOf modules
      cursor := BitVec.ofNat 32 (s.dp.cursor.toNat + 67 * s.dp.modw.toNat)
      pixReads := []
      status := { s.dp.status with done := true } } }

/-! ## TRANSLATE -/

/-- TRANSLATE is its checks in list order (R140, R142, R144): the digits, or the result of the first failing
check and no digits; it has no configuration check and writes nothing else but `DONE`. -/
def Obligations.TranslateFollowsCheckOrder : Prop :=
  ∀ s : State, Ready s →
    exec .translate s = .next { s with dp := { s.dp with
      result := (match translateRule s.dp.codes with | .ok _ => .ok | .error r => r)
      digits := (match translateRule s.dp.codes with | .ok ds => packDigits ds | .error _ => 0xFFFFFFFF)
      pixReads := []
      status := { s.dp.status with done := true } } }

/-- `Lookup`, R141 whole: the smallest digit whose entry is the value, or NONE when no entry equals it. -/
def Obligations.LookupFindsSmallestDigit : Prop :=
  ∀ (table : List Code) (v : Code), table.length = 10 →
    (∀ x : Fin 10, lookup table v = some x ↔
      table.getD x.val 0 = v ∧ ∀ y : Fin 10, y < x → table.getD y.val 0 ≠ v) ∧
    (lookup table v = none ↔ ∀ x : Fin 10, table.getD x.val 0 ≠ v)

/-- The tables of R139, bit by bit, first module in the most significant bit, and the properties that R139
derives from them. -/
def Obligations.TablesAreComplementary : Prop :=
  digitTables.1 = [0b1110010, 0b1100110, 0b1101100, 0b1000010, 0b1011100, 0b1001110, 0b1010000, 0b1000100,
    0b1001000, 0b1110100] ∧
  digitTables.2 = [0b0001101, 0b0011001, 0b0010011, 0b0111101, 0b0100011, 0b0110001, 0b0101111, 0b0111011,
    0b0110111, 0b0001011] ∧
  digitTables.1.length = 10 ∧ digitTables.2.length = 10 ∧
  (digitTables.1 ++ digitTables.2).Nodup ∧
  (∀ x : Fin 10, digitTables.2.getD x.val 0 = 127 - digitTables.1.getD x.val 0) ∧
  (∀ x : Fin 10, (digitTables.1.getD x.val 0).getLsbD 6 = true ∧ (digitTables.1.getD x.val 0).getLsbD 0 = false)

/-- The codes of any eight digits translate to those digits, each in its nibble; no check digit is validated
(R139, R143, R145). -/
def Obligations.TranslateRecoversDigits : Prop :=
  ∀ (s : State) (ds : Vector (Fin 10) 8), Ready s → s.dp.codes = symbolCodes ds →
    ∃ w, exec .translate s = .next { s with dp := { s.dp with
        result := .ok
        digits := w
        pixReads := []
        status := { s.dp.status with done := true } } } ∧
      ∀ j : Fin 8, digitAt w j.val = ds[j].val

/-- A symbol read right to left fails at digit position 0 (R146): its first left code is a bit-reversed RIGHT
code. -/
def Obligations.ReversedScanFails : Prop :=
  ∀ (s : State) (x : Fin 10), Ready s → s.dp.codes[0] = startGuard →
    s.dp.codes[1] = (digitTables.2.getD x.val 0).reverse →
    exec .translate s = .next { s with dp := { s.dp with
      result := .invalidDigitError 0
      digits := 0xFFFFFFFF
      pixReads := []
      status := { s.dp.status with done := true } } }

/-! ## RUN -/

/-- RUN is UNPACK, MEASURE, ASSEMBLE and TRANSLATE in order (R153): when the configuration check passes and no
pixel byte of the row answers with an error, each of the four completes after the one before, and RUN leaves
what the four leave; the port's trace is UNPACK's. -/
def Obligations.RunIsThePipeline : Prop :=
  ∀ s : State, Ready s → imageOk s.dp = true → rowReadable s.dp (pixelBytes s.dp) →
    ∃ s₁ s₂ s₃ s₄, exec .unpack s = .next s₁ ∧ exec .measure s₁ = .next s₂ ∧ exec .assemble s₂ = .next s₃ ∧
      exec .translate s₃ = .next s₄ ∧
      exec .run s = .next { s₄ with dp := { s₄.dp with pixReads := s₁.dp.pixReads } }

/-- RUN ends where UNPACK aborts (R153): on a CfgError or a BusError it leaves exactly what UNPACK leaves. -/
def Obligations.RunAbortsWithUnpack : Prop :=
  ∀ s : State, Ready s → (imageOk s.dp = false ∨ ¬ rowReadable s.dp (pixelBytes s.dp)) →
    exec .run s = exec .unpack s

/-- The headline: RUN on a clean image of any eight digits recovers exactly those digits (R127, R153, R203).
The row holds light pixels before `q`, then the 67 modules of the symbol, `B` pixels each with
`B >= OFFSET.VAL + 1`, inside the row; what follows is free. The port's trace is assumption 16. -/
def Obligations.RunDecodesCleanImage : Prop :=
  ∀ (s : State) (bytes : Nat → Byte) (ds : Vector (Fin 10) 8) (modules : Nat → Colour) (q B : Nat),
    Ready s → imageOk s.dp = true → RowHolds s.dp (pixelBytes s.dp) bytes →
    codesOf modules = symbolCodes ds →
    s.dp.offset.toNat + 1 ≤ B → q + 67 * B ≤ scanWidth s.dp →
    (∀ x < q, rowPixel bytes x = light) →
    (∀ m < 67, ∀ t < B, rowPixel bytes (q + m * B + t) = modules m) →
    ∃ sl, (∀ x, sparseGet sl x = if x < scanWidth s.dp then some (rowPixel bytes x) else sparseGet s.dp.sl x) ∧
      exec .run s = .next { s with dp := { s.dp with
      rowsel := BitVec.ofNat 32 (logicalRow s.dp)
      rowaddr := rowAddress s.dp
      sl := sl
      pixReads := (List.range (pixelBytes s.dp)).map (rowByte s.dp)
      cursor := BitVec.ofNat 32 (q + 67 * B)
      modw := BitVec.ofNat 32 B
      codes := symbolCodes ds
      result := .ok
      digits := packDigits ds.toList
      status := { s.dp.status with nobar := false, done := true } } }

/-- Independence of decodes, R197 (a): the outcome of a RUN that passes its check and gets no BusError depends
on the configuration, pixel memory and the draws, and on no register or cell an earlier command left. -/
def Obligations.RunForgetsEarlierDecodes : Prop :=
  ∀ s s' t t' : State, Ready s → Ready s' → imageOk s.dp = true → rowReadable s.dp (pixelBytes s.dp) →
    s'.dp.width = s.dp.width → s'.dp.height = s.dp.height → s'.dp.pixbase = s.dp.pixbase →
    s'.dp.offset = s.dp.offset → s'.dp.capPred = s.dp.capPred → s'.dp.mem = s.dp.mem →
    s'.dp.errs = s.dp.errs → s'.dp.draws = s.dp.draws →
    exec .run s = .next t → exec .run s' = .next t' →
    t'.dp.rowsel = t.dp.rowsel ∧ t'.dp.rowaddr = t.dp.rowaddr ∧ t'.dp.cursor = t.dp.cursor ∧
    t'.dp.modw = t.dp.modw ∧ t'.dp.status.nobar = t.dp.status.nobar ∧ t'.dp.codes = t.dp.codes ∧
    t'.dp.result = t.dp.result ∧ t'.dp.digits = t.dp.digits ∧
    ∀ x < scanWidth s.dp, sparseGet t'.dp.sl x = sparseGet t.dp.sl x

/-! ## Aborts, SOFTRESET, illegal words, acceptance -/

/-- CfgError, R161 whole: the five commands that read the scanline or the image check `WIDTH`, UNPACK and RUN
also `HEIGHT`; a failed check changes `CFGERR` and `DONE` only; a passed one, and TRANSLATE, leave `CFGERR`
alone. -/
def Obligations.ConfigErrorChangesNothingElse : Prop :=
  (∀ (s : State) (op : Op), Ready s → op ≠ .translate →
    (s.dp.width.toInt < 1 ∨ (s.dp.scanMax : Int) < s.dp.width.toInt ∨
      ((op = .unpack ∨ op = .run) ∧ s.dp.height.toInt = 0)) →
    exec op.instr s = .next { s with dp := { s.dp with
      pixReads := [], status := { s.dp.status with cfgerr := true, done := true } } }) ∧
  (∀ (s t : State) (op : Op), Ready s →
    (op = .translate ∨ (1 ≤ s.dp.width.toInt ∧ s.dp.width.toInt ≤ (s.dp.scanMax : Int) ∧
      ((op = .unpack ∨ op = .run) → s.dp.height.toInt ≠ 0))) →
    exec op.instr s = .next t → t.dp.status.cfgerr = s.dp.status.cfgerr)

/-- SOFTRESET, R155 whole: its word is 7; an idle block takes every reset value at once, keeps the scanline,
leaves `DONE` 0 and `IRQ` 0; a busy block drops it and sets `BUSYWR`. -/
def Obligations.SoftresetRestoresRegisters : Prop :=
  decodeWord 0x00000007 = .softreset ∧
  ∀ s : State,
    (s.seq = .idle → ∃ t, exec .softreset s = .next t ∧ irq t = false ∧
      t = { s with dp := { s.dp with
        ie := false, status := {}, offset := 2, width := 0, height := 0, pixbase := 0, rowsel := 0
        rowaddr := 0, cursor := 0, modw := 0, result := .none, digits := 0xFFFFFFFF
        codes := Vector.replicate 11 0 } }) ∧
    (s.seq ≠ .idle → exec .softreset s = .next { s with dp := { s.dp with
        status := { s.dp.status with busywr := true } } })

/-- Illegal words, R90 whole: an idle block sets `ILLCMD` and `DONE` and changes nothing else; in a busy period
the write is not decoded, it is dropped and sets `BUSYWR`. -/
def Obligations.IllegalWordOnlySetsFlags : Prop :=
  ∀ (s : State) (m : Moment) (v : Word) (rest : List Turn),
    s.host = ⟨m, .port (regOffset .cmd) 4 (.write v)⟩ :: rest → (decodeWord v).illegal = true →
    (s.seq = .idle → step s = .next { s with
      host := rest
      resp := .written
      dp := { s.dp with status := { s.dp.status with illcmd := true, done := true } } }) ∧
    (s.seq ≠ .idle → m = .after 0 → step s = .next { s with
      host := rest
      resp := .written
      dp := { s.dp with status := { s.dp.status with busywr := true } } })

/-- The meaning of each reserved row on an idle block (R90, R91). -/
def Obligations.ReservedRowsAreIllegal : Prop :=
  ∀ (s : State) (i : Instr), s.seq = .idle →
    (i = .reservedOp0 ∨ (∃ low, i = .reservedOp8F low) ∨ ∃ op rsv, i = .reservedRsv op rsv) →
    exec i s = .next { s with dp := { s.dp with
      status := { s.dp.status with illcmd := true, done := true } } }

/-- Acceptance (R151), where an act of the host lands in the busy period: `DONE` falls, the sequencer is at the
command's start, and nothing else has changed yet. -/
def Obligations.AcceptanceOpensBusyPeriod : Prop :=
  ∀ (s : State) (op : Op), s.seq = .idle → undisturbed s = false →
    exec op.instr s = .next { s with
      dp := { s.dp with pixReads := [], status := { s.dp.status with done := false } }
      seq := .busy op .start {} }

/-- The interrupt (R47, R150, R168, R208). In every state `IRQ` is `CTRL.IE AND STATUS.DONE`. After every command
word but SOFTRESET that an undisturbed idle block takes it is `CTRL.IE`, and after SOFTRESET it is 0. It falls
when a command is accepted and when the host clears `DONE`, and a write of `CTRL` sets it at once to the written
`IE` and `DONE`. -/
def Obligations.CompletionRaisesInterrupt : Prop :=
  (∀ s : State, irq s = (s.dp.ie && s.dp.status.done)) ∧
  (∀ (s t : State) (i : Instr), Ready s → exec i s = .next t →
    t.seq = .idle ∧ irq t = if i = .softreset then false else s.dp.ie) ∧
  (∀ (s t : State) (op : Op), s.seq = .idle → undisturbed s = false → exec op.instr s = .next t → irq t = false) ∧
  (∀ (s t : State) (m : Moment) (v : Word) (rest : List Turn),
    s.host = ⟨m, .port (regOffset .status) 4 (.write v)⟩ :: rest → (s.seq = .idle ∨ m = .after 0) →
    v.getLsbD 1 = true → step s = .next t → irq t = false) ∧
  (∀ (s t : State) (m : Moment) (v : Word) (rest : List Turn),
    s.host = ⟨m, .port (regOffset .ctrl) 4 (.write v)⟩ :: rest → s.seq = .idle → step s = .next t →
    irq t = (v.getLsbD 0 && s.dp.status.done))

/-- No command word stops the machine: each has a next state from every state. -/
def Obligations.EveryCommandHasNextState : Prop :=
  ∀ (i : Instr) (s : State), ∃ t, exec i s = .next t

/-! ## What commands leave alone -/

/-- R45's table: an accepted command that runs whole, or is only accepted, writes nothing its row does not
list; of the scanline that is `SL[0]` to `SL[W-1]`, by UNPACK and RUN. -/
def Obligations.CommandsWriteOnlyTheirRow : Prop :=
  ∀ (s t : State) (op : Op), s.seq = .idle → exec op.instr s = .next t →
    t.host = s.host ∧ t.resp = s.resp ∧
    t.dp.ie = s.dp.ie ∧ t.dp.offset = s.dp.offset ∧ t.dp.width = s.dp.width ∧ t.dp.height = s.dp.height ∧
    t.dp.pixbase = s.dp.pixbase ∧ t.dp.capPred = s.dp.capPred ∧ t.dp.mem = s.dp.mem ∧ t.dp.errs = s.dp.errs ∧
    t.dp.status.illcmd = s.dp.status.illcmd ∧ t.dp.status.busywr = s.dp.status.busywr ∧
    (op ≠ .unpack → op ≠ .run →
      t.dp.rowsel = s.dp.rowsel ∧ t.dp.rowaddr = s.dp.rowaddr ∧ t.dp.sl = s.dp.sl ∧
      t.dp.status.buserr = s.dp.status.buserr) ∧
    (op ≠ .measure → op ≠ .run → t.dp.modw = s.dp.modw ∧ t.dp.status.nobar = s.dp.status.nobar) ∧
    (op ≠ .measure → op ≠ .assemble → op ≠ .run → t.dp.cursor = s.dp.cursor) ∧
    (op ≠ .classify → t.dp.status.clsbit = s.dp.status.clsbit) ∧
    (op ≠ .assemble → op ≠ .run → t.dp.codes = s.dp.codes) ∧
    (op ≠ .classify → op ≠ .assemble → op ≠ .run → t.dp.status.oob = s.dp.status.oob) ∧
    (op ≠ .translate → op ≠ .run → t.dp.result = s.dp.result ∧ t.dp.digits = s.dp.digits) ∧
    (op = .translate → t.dp.status.cfgerr = s.dp.status.cfgerr) ∧
    ∀ x, scanWidth s.dp ≤ x → sparseGet t.dp.sl x = sparseGet s.dp.sl x

/-- The same for each of the block's own steps of a running command, its last one included (R45, R150). -/
def Obligations.BlockStepsWriteOnlyTheirRow : Prop :=
  ∀ (s : State) (op : Op) (pos : Pos) (hz : Hazard), Inv s → s.seq = .busy op pos hz →
    let t := blockStep s
    t.dp.ie = s.dp.ie ∧ t.dp.offset = s.dp.offset ∧ t.dp.width = s.dp.width ∧ t.dp.height = s.dp.height ∧
    t.dp.pixbase = s.dp.pixbase ∧ t.dp.capPred = s.dp.capPred ∧ t.dp.mem = s.dp.mem ∧ t.dp.errs = s.dp.errs ∧
    t.dp.status.illcmd = s.dp.status.illcmd ∧ t.dp.status.busywr = s.dp.status.busywr ∧
    (op ≠ .unpack → op ≠ .run →
      t.dp.rowsel = s.dp.rowsel ∧ t.dp.rowaddr = s.dp.rowaddr ∧ t.dp.sl = s.dp.sl ∧
      t.dp.status.buserr = s.dp.status.buserr) ∧
    (op ≠ .measure → op ≠ .run → t.dp.modw = s.dp.modw ∧ t.dp.status.nobar = s.dp.status.nobar) ∧
    (op ≠ .measure → op ≠ .assemble → op ≠ .run → t.dp.cursor = s.dp.cursor) ∧
    (op ≠ .classify → t.dp.status.clsbit = s.dp.status.clsbit) ∧
    (op ≠ .assemble → op ≠ .run → t.dp.codes = s.dp.codes) ∧
    (op ≠ .classify → op ≠ .assemble → op ≠ .run → t.dp.status.oob = s.dp.status.oob) ∧
    (op ≠ .translate → op ≠ .run → t.dp.result = s.dp.result ∧ t.dp.digits = s.dp.digits) ∧
    (op = .translate → t.dp.status.cfgerr = s.dp.status.cfgerr) ∧
    ∀ x, scanWidth s.dp ≤ x → sparseGet t.dp.sl x = sparseGet s.dp.sl x

/-- Sticky flags (R28, R207): no command word but SOFTRESET clears `OOB`, `ILLCMD`, `CFGERR`, `BUSERR` or
`BUSYWR`. -/
def Obligations.CommandsNeverClearStickyFlags : Prop :=
  ∀ (s t : State) (i : Instr), i ≠ .softreset → exec i s = .next t →
    (s.dp.status.oob = true → t.dp.status.oob = true) ∧
    (s.dp.status.illcmd = true → t.dp.status.illcmd = true) ∧
    (s.dp.status.cfgerr = true → t.dp.status.cfgerr = true) ∧
    (s.dp.status.buserr = true → t.dp.status.buserr = true) ∧
    (s.dp.status.busywr = true → t.dp.status.busywr = true)

/-! ## The register port -/

/-- R24's map, its offsets written out: every register is found at its offset; scanline offsets at or above SCAN_MAX, and the offsets
between `SCANCAP` and `CODE0` and between `CODE10` and the scanline window, are reserved (R43, R44). -/
def Obligations.RegisterMapIsFaithful : Prop :=
  (regOffset .id = 0x000 ∧ regOffset .ctrl = 0x004 ∧ regOffset .cmd = 0x008 ∧ regOffset .status = 0x00C ∧
    regOffset .offset = 0x010 ∧ regOffset .width = 0x014 ∧ regOffset .height = 0x018 ∧
    regOffset .pixbase = 0x01C ∧ regOffset .rowsel = 0x020 ∧ regOffset .rowaddr = 0x024 ∧
    regOffset .cursor = 0x028 ∧ regOffset .modw = 0x02C ∧ regOffset .result = 0x030 ∧
    regOffset .digits = 0x034 ∧ regOffset .scancap = 0x038 ∧
    (∀ k : Fin 11, (regOffset (.code k)).toNat = 0x040 + 4 * k.val) ∧
    (∀ i, i < 0x1C0000 → (regOffset (.sl i)).toNat = 0x100000 + 4 * i)) ∧
  ∀ cap : BitVec 20,
    (∀ r : Reg, r ≠ .reserved → (∀ i, r = .sl i → i < cap.toNat + 1) → regAt (cap.toNat + 1) (regOffset r) = r) ∧
    (∀ i, cap.toNat + 1 ≤ i → i < 0x1C0000 → regAt (cap.toNat + 1) (regOffset (.sl i)) = .reserved) ∧
    (∀ off : BitVec 23, (0x00003C ≤ off.toNat ∧ off.toNat < 0x000040) ∨
      (0x00006C ≤ off.toNat ∧ off.toNat < 0x100000) → regAt (cap.toNat + 1) off = .reserved)

/-- A host write to a register of an idle block, then a read of it: the writable bits are the written ones, the
others are as before, reserved bits and reserved offsets read 0, and no other register changes
(R24 to R44). -/
def Obligations.RegisterWriteReadsBack : Prop :=
  ∀ (s : State) (m m' : Moment) (off : BitVec 23) (v : Word) (rest : List Turn),
    s.seq = .idle → off.toNat % 4 = 0 →
    s.host = ⟨m, .port off 4 (.write v)⟩ :: ⟨m', .port off 4 .read⟩ :: rest →
    let r := regAt s.dp.scanMax off
    r ≠ .cmd → r ≠ .status →
    ∃ t u, step s = .next t ∧ step t = .next u ∧ u.host = rest ∧
      u.resp = .data ((v &&& writableBits r) ||| ((readReg false r s.dp).1 &&& ~~~ writableBits r)) ∧
      ∀ r', r' ≠ r → (readReg false r' t.dp).1 = (readReg false r' s.dp).1

/-- The layout of every register as the port reads it, busy or idle (R12, R25 to R44): `STATUS` bit by bit (R28),
`RESULT` with `RCODE` in [3:0] and `POS` in [10:8] (R38, R39), reserved bits, reserved offsets and `CMD` 0. -/
def Obligations.RegisterLayouts : Prop :=
  ∀ (busy : Bool) (d : Datapath),
    let read := fun r => (readReg busy r d).1
    read .id = 0x45380001 ∧ read .cmd = 0 ∧ read .reserved = 0 ∧
    (read .ctrl).toNat = (if d.ie then 1 else 0) ∧
    (read .status).getLsbD 0 = busy ∧
    (read .status).getLsbD 1 = d.status.done ∧
    (read .status).getLsbD 2 = d.status.oob ∧
    (read .status).getLsbD 3 = d.status.nobar ∧
    (read .status).getLsbD 4 = d.status.clsbit ∧
    (read .status).getLsbD 5 = d.status.illcmd ∧
    (read .status).getLsbD 6 = d.status.cfgerr ∧
    (read .status).getLsbD 7 = d.status.buserr ∧
    (read .status).getLsbD 8 = d.status.busywr ∧
    (∀ i, 9 ≤ i → (read .status).getLsbD i = false) ∧
    (read .offset).toNat = d.offset.toNat ∧ read .width = d.width ∧ read .height = d.height ∧
    read .pixbase = d.pixbase ∧ read .rowsel = d.rowsel ∧ read .rowaddr = d.rowaddr ∧
    read .cursor = d.cursor ∧ read .modw = d.modw ∧ read .digits = d.digits ∧
    (read .result).extractLsb' 0 4 =
      (match d.result with
        | .none => 0 | .ok => 1 | .startGuardError => 2 | .invalidDigitError _ => 3 | .dividerError => 4
        | .stopGuardError => 5) ∧
    ((read .result).extractLsb' 8 3).toNat = (match d.result with | .invalidDigitError p => p.val | _ => 0) ∧
    (read .result).extractLsb' 4 4 = 0 ∧ (read .result).extractLsb' 11 21 = 0 ∧
    (read .scancap).toNat = d.scanMax ∧
    (∀ k : Fin 11, (read (.code k)).toNat = d.codes[k].toNat) ∧
    (∀ i c, sparseGet d.sl i = some c → (read (.sl i)).toNat = if c then 1 else 0)

/-- A host read of an idle block answers the register's value and has no side effect (R70): only the answer
appears; an unwritten scanline cell costs a draw (R191, assumption 6). The values are those of
`RegisterLayouts`. -/
def Obligations.ReadsHaveNoSideEffect : Prop :=
  ∀ (s : State) (m : Moment) (off : BitVec 23) (rest : List Turn),
    s.seq = .idle → off.toNat % 4 = 0 → s.host = ⟨m, .port off 4 .read⟩ :: rest →
    let r := regAt s.dp.scanMax off
    ((∀ i, r = .sl i → sparseGet s.dp.sl i ≠ none) →
      step s = .next { s with host := rest, resp := .data (readReg false r s.dp).1 }) ∧
    (∀ i, r = .sl i → sparseGet s.dp.sl i = none →
      step s = .next { s with
        host := rest
        resp := .data (if Config.freeBit s.dp.draws then 1 else 0)
        dp := { s.dp with draws := s.dp.draws + 1 } })

/-- A register access of the wrong shape gets the error response and has no effect, busy or idle (R67,
R166 (6)). -/
def Obligations.WrongShapeGetsErrorResponse : Prop :=
  ∀ (s : State) (m : Moment) (off : BitVec 23) (size : Nat) (a : Access) (rest : List Turn),
    s.host = ⟨m, .port off size a⟩ :: rest → (s.seq = .idle ∨ m = .after 0) →
    (size ≠ 4 ∨ off.toNat % 4 ≠ 0) →
    step s = .next { s with host := rest, resp := .error }

/-- The W1C write (R29): each W1C field whose bit is 1 is cleared, every other field stays, read-only and
reserved bits are ignored, busy or idle, and `BUSYWR` is never set by it. A busy block stays at its position,
and remembers each field so cleared that its command may write: DONE for every command, and OOB, CFGERR and
BUSERR as R45 lists them. `RacedFlagIsFree` says what becomes of them (R200 (b), assumption 13). -/
def Obligations.StatusWriteClearsOnes : Prop :=
  ∀ (s : State) (m : Moment) (v : Word) (rest : List Turn),
    s.host = ⟨m, .port (regOffset .status) 4 (.write v)⟩ :: rest → (s.seq = .idle ∨ m = .after 0) →
    step s = .next { s with
      host := rest
      resp := .written
      seq := (match s.seq with
        | .idle => .idle
        | .busy op pos hz => .busy op pos { hz with raced := { hz.raced with
            done := hz.raced.done || v.getLsbD 1
            oob := hz.raced.oob || (v.getLsbD 2 && decide (op = .classify ∨ op = .assemble ∨ op = .run))
            cfgerr := hz.raced.cfgerr || (v.getLsbD 6 && decide (op ≠ .translate))
            buserr := hz.raced.buserr || (v.getLsbD 7 && decide (op = .unpack ∨ op = .run)) } })
      dp := { s.dp with status :=
        { done := s.dp.status.done && !v.getLsbD 1
          oob := s.dp.status.oob && !v.getLsbD 2
          nobar := s.dp.status.nobar
          clsbit := s.dp.status.clsbit
          illcmd := s.dp.status.illcmd && !v.getLsbD 5
          cfgerr := s.dp.status.cfgerr && !v.getLsbD 6
          buserr := s.dp.status.buserr && !v.getLsbD 7
          busywr := s.dp.status.busywr && !v.getLsbD 8 } } }

/-- A host write in a busy period to any offset but `STATUS` is dropped and sets `BUSYWR` (R200 (a)). -/
def Obligations.BusyWriteIsDropped : Prop :=
  ∀ (s : State) (op : Op) (pos : Pos) (hz : Hazard) (off : BitVec 23) (v : Word) (rest : List Turn),
    s.seq = .busy op pos hz → s.host = ⟨.after 0, .port off 4 (.write v)⟩ :: rest →
    off.toNat % 4 = 0 → off ≠ 0x00C →
    step s = .next { s with
      host := rest
      resp := .written
      dp := { s.dp with status := { s.dp.status with busywr := true } } }

/-- A dropped write does not change what the running command does (R152, R200 (a)): after every number of steps
the two runs differ in `BUSYWR` alone. -/
def Obligations.DroppedWriteLeavesCommandAlone : Prop :=
  ∀ (s t : State) (n : Nat), s.host = [] → Reaches n s t → Reaches n (busyWrite s) (busyWrite t)

/-- A host read in a busy period (R200 (c)), with R45's rows written out in `rowBits`: a register the command may
not write reads its exact value and nothing else changes, but that an unwritten cell reads as a draw (R191); a
register the command may write reads as a free value in the bits the command may write (assumption 14). -/
def Obligations.BusyReadIsExactOrFree : Prop :=
  ∀ (s : State) (op : Op) (pos : Pos) (hz : Hazard) (off : BitVec 23) (rest : List Turn),
    s.seq = .busy op pos hz → s.host = ⟨.after 0, .port off 4 .read⟩ :: rest → off.toNat % 4 = 0 →
    let r := regAt s.dp.scanMax off
    let mask := rowBits (scanWidth s.dp) r op
    r ≠ .status →
    (mask = 0 → (∀ i, r = .sl i → sparseGet s.dp.sl i ≠ none) →
      step s = .next { s with host := rest, resp := .data (readReg true r s.dp).1 }) ∧
    (mask = 0 → ∀ i, r = .sl i → sparseGet s.dp.sl i = none →
      step s = .next { s with
        host := rest
        resp := .data (if Config.freeBit s.dp.draws then 1 else 0)
        dp := { s.dp with draws := s.dp.draws + 1 } }) ∧
    (mask ≠ 0 → step s = .next { s with
      host := rest
      resp := .data (Config.freeWord s.dp.draws &&& mask)
      dp := { s.dp with draws := s.dp.draws + 1 } })

/-- `STATUS` read in a busy period (R200 (c)): `BUSY` 1, `DONE` 0, each field that R45 lists for the command a
draw of this read, the other fields exact, and only the draw counter moves. -/
def Obligations.BusyStatusRead : Prop :=
  ∀ (s : State) (op : Op) (pos : Pos) (hz : Hazard) (rest : List Turn),
    s.seq = .busy op pos hz → s.host = ⟨.after 0, .port (regOffset .status) 4 .read⟩ :: rest →
    ∃ w n, step s = .next { s with host := rest, resp := .data w, dp := { s.dp with draws := n } } ∧
      let drawn := fun b : Bool => ∃ k, s.dp.draws ≤ k ∧ k < n ∧ b = Config.freeBit k
      w.getLsbD 0 = true ∧ w.getLsbD 1 = false ∧
      (if op = .classify ∨ op = .assemble ∨ op = .run then drawn (w.getLsbD 2)
        else w.getLsbD 2 = s.dp.status.oob) ∧
      (if op = .measure ∨ op = .run then drawn (w.getLsbD 3) else w.getLsbD 3 = s.dp.status.nobar) ∧
      (if op = .classify then drawn (w.getLsbD 4) else w.getLsbD 4 = s.dp.status.clsbit) ∧
      w.getLsbD 5 = s.dp.status.illcmd ∧
      (if op ≠ .translate then drawn (w.getLsbD 6) else w.getLsbD 6 = s.dp.status.cfgerr) ∧
      (if op = .unpack ∨ op = .run then drawn (w.getLsbD 7) else w.getLsbD 7 = s.dp.status.buserr) ∧
      w.getLsbD 8 = s.dp.status.busywr ∧ ∀ i, 9 ≤ i → w.getLsbD i = false

/-- The register window lies at EMSD_BASE (R66): an access by absolute address inside the window is the access
at its offset, and one outside is the model's fault (assumption 10). -/
def Obligations.WindowLiesAtBase : Prop :=
  ∀ (s : State) (m : Moment) (size : Nat) (a : Access) (rest : List Turn), (s.seq = .idle ∨ m = .after 0) →
    (∀ off : BitVec 23, step { s with host := ⟨m, .bus (Config.emsdBase + off.toNat) size a⟩ :: rest } =
      step { s with host := ⟨m, .port off size a⟩ :: rest }) ∧
    (∀ addr, (addr < Config.emsdBase ∨ Config.emsdBase + 2 ^ 23 ≤ addr) →
      step { s with host := ⟨m, .bus addr size a⟩ :: rest } = .fault .outsideWindow)

/-! ## Hazards -/

/-- A flag that the host cleared in the busy period and the command may write is free after `finish()`
(R200 (b), U4); `DONE` is 1 unless it is such a flag. -/
def Obligations.RacedFlagIsFree : Prop :=
  ∀ (s : State) (op : Op) (pos : Pos) (hz : Hazard), s.seq = .busy op pos hz → (blockStep s).seq = .idle →
    (hz.raced.done = false → (blockStep s).dp.status.done = true) ∧
    (hz.raced.done = true → ∃ n, s.dp.draws ≤ n ∧ (blockStep s).dp.status.done = Config.freeBit n) ∧
    (hz.raced.oob = true → ∃ n, s.dp.draws ≤ n ∧ (blockStep s).dp.status.oob = Config.freeBit n) ∧
    (hz.raced.cfgerr = true → ∃ n, s.dp.draws ≤ n ∧ (blockStep s).dp.status.cfgerr = Config.freeBit n) ∧
    (hz.raced.buserr = true → ∃ n, s.dp.draws ≤ n ∧ (blockStep s).dp.status.buserr = Config.freeBit n)

/-- A write of pixel memory during UNPACK, or the UNPACK phase of RUN, from its start on (R74 (d), R201;
assumption 15). The step at which the write lands is `pixelWrite` on the state from which that act is taken. Of a
byte outside the selected row's pixel bytes: it is only stored. Of pixel byte `i` of the row: it is stored and the race is remembered; if the block has read the byte already, the byte's cells are drawn again.
After the race every byte that the block reads is a free value, and the race lasts as long as the command. -/
def Obligations.PixelRaceMakesBytesFree : Prop :=
  (∀ (s : State) (m : Moment) (addr : Word) (b : Byte) (rest : List Turn),
    s.host = ⟨m, .pixelWrite addr b⟩ :: rest → (s.seq = .idle ∨ m = .after 0) →
    step s = .next (pixelWrite addr b { s with host := rest })) ∧
  (∀ (s : State) (op : Op) (pos : Pos) (hz : Hazard) (j : Nat) (addr : Word) (b : Byte),
    (op = .unpack ∨ op = .run) → s.seq = .busy op pos hz → (pos = .start ∧ j = 0 ∨ pos = .byte j) →
    ((∀ i < pixelBytes s.dp, addr ≠ rowByte s.dp i) → pixelWrite addr b s = storePixel addr b s) ∧
    (∀ i < pixelBytes s.dp, addr = rowByte s.dp i → ∃ sl n,
      pixelWrite addr b s = { s with
        dp := { s.dp with mem := (storePixel addr b s).dp.mem, sl := sl, draws := n }
        seq := .busy op pos { hz with pixRace := true } } ∧
      (if i < j then
        n = s.dp.draws + 1 ∧ ∀ x, sparseGet sl x =
          if x / 8 = i ∧ x < scanWidth s.dp then some ((Config.freeByte s.dp.draws).getLsbD (7 - x % 8))
          else sparseGet s.dp.sl x
      else sl = s.dp.sl ∧ n = s.dp.draws))) ∧
  (∀ (s : State) (op : Op) (j : Nat) (hz : Hazard), s.seq = .busy op (.byte j) hz → hz.pixRace = true →
    pixelError s.dp.errs (s.dp.rowaddr + BitVec.ofNat 32 j) = false →
    ∀ x, x / 8 = j → x < scanWidth s.dp →
      sparseGet (blockStep s).dp.sl x = some ((Config.freeByte s.dp.draws).getLsbD (7 - x % 8))) ∧
  (∀ (s : State) (op : Op) (pos : Pos) (hz : Hazard), s.seq = .busy op pos hz →
    (blockStep s).seq = .idle ∨ ∃ pos', (blockStep s).seq = .busy op pos' hz)

/-- A write of pixel memory while the block is idle, or busy outside an UNPACK: the byte is stored, every other
byte and everything else is as before (R61, R192, R201; assumption 22). -/
def Obligations.PixelWriteStoresOneByte : Prop :=
  ∀ (s : State) (m : Moment) (addr : Word) (b : Byte) (rest : List Turn),
    s.host = ⟨m, .pixelWrite addr b⟩ :: rest →
    (s.seq = .idle ∨ m = .after 0 ∧ ∃ op pos hz, s.seq = .busy op pos hz ∧
      ((op ≠ .unpack ∧ op ≠ .run) ∨ (pos ≠ .start ∧ ∀ j, pos ≠ .byte j))) →
    ∃ mem, step s = .next { s with host := rest, dp := { s.dp with mem := mem } } ∧
      ∀ a, sparseGet mem a = if a = addr.toNat then some b else sparseGet s.dp.mem a

/-! ## Whole-machine results -/

/-- Every step keeps the invariant, from every state that meets it, whatever the host does. -/
def Obligations.StepKeepsInvariant : Prop :=
  ∀ s t : State, Inv s → step s = .next t → Inv t

/-- A machine whose host stays inside the register window never stops (R66); an idle block whose host has nothing
to do waits, and every part of its state persists (R174, R193). -/
def Obligations.EveryStepProgresses : Prop :=
  (∀ s : State, hostInWindow s → ∃ t, step s = .next t ∧ hostInWindow t) ∧
  ∀ s : State, s.seq = .idle → s.host = [] → step s = .next s

/-- For every stage command: the block's own steps, one read or one check each, reach exactly what the
command's meaning gives at once (R22, R103, R112, R115, R126, R140). -/
def Obligations.BlockStepsReachStageMeaning : Prop :=
  ∀ (s : State) (op : Op), op ≠ .run → Ready s →
    ∃ n t, exec op.instr s = .next t ∧ Reaches n (accept op s) t

/-- The same for RUN, through its four phases (R153, R154). -/
def Obligations.BlockStepsReachRunMeaning : Prop :=
  ∀ s : State, Ready s → ∃ n t, exec .run s = .next t ∧ Reaches n (accept .run s) t

/-- Every busy period ends (R150, R152, R210, R211): whatever register accesses, pixel writes and resets the
host makes in it, the block is idle after finitely many steps. -/
def Obligations.EveryBusyPeriodEnds : Prop :=
  ∀ s : State, hostInWindow s → ∃ n t, Reaches n s t ∧ t.seq = .idle
end

