-- ==== Sys2Proof/Laws/Sparse.lean ====
section
/-! SUPPORT. The laws of sparse storage: a read after a write, and the canonical form. -/

namespace Sys2Proof.Machine

/-- The entry written is read back. -/
@[simp] theorem sparseGet_set_same {α : Type} (m : Sparse α) (k : Nat) (v : α) :
    sparseGet (sparseSet m k v) k = some v := by
  induction m with
  | nil => simp [sparseSet, sparseGet]
  | cons e rest ih =>
    obtain ⟨k', v'⟩ := e
    by_cases h1 : k < k'
    · simp [sparseSet, sparseGet, h1]
    · by_cases h2 : k = k' <;> simp [sparseSet, sparseGet, h1, h2, ih]

/-- Every other entry stays. -/
theorem sparseGet_set_other {α : Type} (m : Sparse α) {k k' : Nat} (v : α) (h : k' ≠ k) :
    sparseGet (sparseSet m k v) k' = sparseGet m k' := by
  induction m with
  | nil => simp [sparseSet, sparseGet, h]
  | cons e rest ih =>
    obtain ⟨k₁, v₁⟩ := e
    by_cases h1 : k < k₁
    · simp [sparseSet, sparseGet, h1, h]
    · by_cases h2 : k = k₁
      · subst h2; simp [sparseSet, sparseGet, h]
      · simp only [sparseSet, h1, h2, if_false, sparseGet, ih]

/-- One spelling for both. -/
theorem sparseGet_set {α : Type} (m : Sparse α) (k k' : Nat) (v : α) :
    sparseGet (sparseSet m k v) k' = if k' = k then some v else sparseGet m k' := by
  split
  · next h => subst h; simp
  · next h => exact sparseGet_set_other m v h

/-- A smaller lower bound. -/
theorem sparseWfFrom_mono {α : Type} {lo lo' hi : Nat} {m : Sparse α} (h : lo' ≤ lo)
    (hm : sparseWfFrom lo hi m = true) : sparseWfFrom lo' hi m = true := by
  cases m with
  | nil => rfl
  | cons e rest =>
    obtain ⟨k, v⟩ := e
    simp only [sparseWfFrom, Bool.and_eq_true, decide_eq_true_eq] at hm ⊢
    exact ⟨⟨by omega, hm.1.2⟩, hm.2⟩

/-- A write inside the bounds keeps the canonical form. -/
theorem sparseWfFrom_set {α : Type} {hi k : Nat} (v : α) (hk : k < hi) :
    ∀ {lo : Nat} {m : Sparse α}, lo ≤ k → sparseWfFrom lo hi m = true →
      sparseWfFrom lo hi (sparseSet m k v) = true
  | lo, [], hl, _ => by simp [sparseSet, sparseWfFrom, hl, hk]
  | lo, (k', v') :: rest, hl, hm => by
    simp only [sparseWfFrom, Bool.and_eq_true, decide_eq_true_eq] at hm
    by_cases h1 : k < k'
    · simp only [sparseSet, h1, if_true, sparseWfFrom, Bool.and_eq_true, decide_eq_true_eq]
      exact ⟨⟨hl, hk⟩, ⟨by omega, hm.1.2⟩, hm.2⟩
    · by_cases h2 : k = k'
      · subst h2
        simp only [sparseSet, Nat.lt_irrefl, if_false, if_true, sparseWfFrom, Bool.and_eq_true,
          decide_eq_true_eq]
        exact ⟨⟨hl, hk⟩, hm.2⟩
      · simp only [sparseSet, h1, h2, if_false, sparseWfFrom, Bool.and_eq_true, decide_eq_true_eq]
        exact ⟨⟨hm.1.1, hm.1.2⟩, sparseWfFrom_set v hk (by omega) hm.2⟩

/-- The one operation that writes storage keeps its canonical form. -/
theorem sparseWf_set {α : Type} {hi k : Nat} {m : Sparse α} (v : α) (hk : k < hi)
    (hm : sparseWf hi m = true) : sparseWf hi (sparseSet m k v) = true :=
  sparseWfFrom_set v hk (Nat.zero_le k) hm

/-- A key read from canonical storage lies inside the bounds. -/
theorem sparseGet_lt {α : Type} {hi k : Nat} {v : α} :
    ∀ {lo : Nat} {m : Sparse α}, sparseWfFrom lo hi m = true → sparseGet m k = some v → lo ≤ k ∧ k < hi
  | _, [], _, h => by simp [sparseGet] at h
  | lo, (k', v') :: rest, hm, h => by
    simp only [sparseWfFrom, Bool.and_eq_true, decide_eq_true_eq] at hm
    by_cases hk : k = k'
    · subst hk; exact hm.1
    · simp only [sparseGet, hk, if_false] at h
      have := sparseGet_lt hm.2 h
      omega

/-- Canonical storages that read alike are equal: the form is canonical. -/
theorem sparseWf_ext {α : Type} {hi : Nat} :
    ∀ {lo lo' : Nat} {m m' : Sparse α}, sparseWfFrom lo hi m = true → sparseWfFrom lo' hi m' = true →
      (∀ k, sparseGet m k = sparseGet m' k) → m = m'
  | _, _, [], [], _, _, _ => rfl
  | _, _, [], (k, v) :: rest, _, _, h => by simpa [sparseGet] using h k
  | _, _, (k, v) :: rest, [], _, _, h => by simpa [sparseGet] using h k
  | _, _, (k, v) :: rest, (k', v') :: rest', hm, hm', h => by
    simp only [sparseWfFrom, Bool.and_eq_true, decide_eq_true_eq] at hm hm'
    have below : ∀ {w : α} {j j' : Nat} {r : Sparse α}, sparseWfFrom (j + 1) hi r = true → j' ≤ j →
        sparseGet r j' = some w → False := fun hr hj hg => by
      have := sparseGet_lt hr hg
      omega
    have hkk : k = k' := by
      by_contra hne
      have h1 := h k
      have h2 := h k'
      simp only [sparseGet, if_true, hne, Ne.symm hne, if_false] at h1 h2
      rcases Nat.lt_or_ge k k' with hlt | hge
      · exact below hm'.2 (Nat.le_of_lt hlt) h1.symm
      · exact below hm.2 hge h2
    subst hkk
    have hv : v = v' := by simpa [sparseGet] using h k
    subst hv
    congr 1
    refine sparseWf_ext hm.2 hm'.2 fun j => ?_
    by_cases hj : j = k
    · subst hj
      cases h1 : sparseGet rest j with
      | some w => exact (below hm.2 (Nat.le_refl j) h1).elim
      | none =>
        cases h2 : sparseGet rest' j with
        | some w => exact (below hm'.2 (Nat.le_refl j) h2).elim
        | none => rfl
    · simpa [sparseGet, hj] using h j

end Sys2Proof.Machine
end

