-- ==== Sys2Proof/Laws/State.lean ====
section
/-! SUPPORT. One lemma per field per named update, each true by rfl: no later proof unfolds an update. -/

namespace Sys2Proof.Machine

@[simp] theorem writeCell_ie (i : Nat) (c : Colour) (d : Datapath) : (writeCell i c d).ie = d.ie := rfl
@[simp] theorem writeCell_status (i : Nat) (c : Colour) (d : Datapath) : (writeCell i c d).status = d.status := rfl
@[simp] theorem writeCell_offset (i : Nat) (c : Colour) (d : Datapath) : (writeCell i c d).offset = d.offset := rfl
@[simp] theorem writeCell_width (i : Nat) (c : Colour) (d : Datapath) : (writeCell i c d).width = d.width := rfl
@[simp] theorem writeCell_height (i : Nat) (c : Colour) (d : Datapath) : (writeCell i c d).height = d.height := rfl
@[simp] theorem writeCell_pixbase (i : Nat) (c : Colour) (d : Datapath) : (writeCell i c d).pixbase = d.pixbase := rfl
@[simp] theorem writeCell_rowsel (i : Nat) (c : Colour) (d : Datapath) : (writeCell i c d).rowsel = d.rowsel := rfl
@[simp] theorem writeCell_rowaddr (i : Nat) (c : Colour) (d : Datapath) : (writeCell i c d).rowaddr = d.rowaddr := rfl
@[simp] theorem writeCell_cursor (i : Nat) (c : Colour) (d : Datapath) : (writeCell i c d).cursor = d.cursor := rfl
@[simp] theorem writeCell_modw (i : Nat) (c : Colour) (d : Datapath) : (writeCell i c d).modw = d.modw := rfl
@[simp] theorem writeCell_result (i : Nat) (c : Colour) (d : Datapath) : (writeCell i c d).result = d.result := rfl
@[simp] theorem writeCell_digits (i : Nat) (c : Colour) (d : Datapath) : (writeCell i c d).digits = d.digits := rfl
@[simp] theorem writeCell_codes (i : Nat) (c : Colour) (d : Datapath) : (writeCell i c d).codes = d.codes := rfl
@[simp] theorem writeCell_sl (i : Nat) (c : Colour) (d : Datapath) : (writeCell i c d).sl = sparseSet d.sl i c := rfl
@[simp] theorem writeCell_capPred (i : Nat) (c : Colour) (d : Datapath) : (writeCell i c d).capPred = d.capPred := rfl
@[simp] theorem writeCell_mem (i : Nat) (c : Colour) (d : Datapath) : (writeCell i c d).mem = d.mem := rfl
@[simp] theorem writeCell_errs (i : Nat) (c : Colour) (d : Datapath) : (writeCell i c d).errs = d.errs := rfl
@[simp] theorem writeCell_pixReads (i : Nat) (c : Colour) (d : Datapath) : (writeCell i c d).pixReads = d.pixReads := rfl
@[simp] theorem writeCell_draws (i : Nat) (c : Colour) (d : Datapath) : (writeCell i c d).draws = d.draws := rfl

@[simp] theorem setCode_ie (k : Fin 11) (v : Code) (d : Datapath) : (setCode k v d).ie = d.ie := rfl
@[simp] theorem setCode_status (k : Fin 11) (v : Code) (d : Datapath) : (setCode k v d).status = d.status := rfl
@[simp] theorem setCode_offset (k : Fin 11) (v : Code) (d : Datapath) : (setCode k v d).offset = d.offset := rfl
@[simp] theorem setCode_width (k : Fin 11) (v : Code) (d : Datapath) : (setCode k v d).width = d.width := rfl
@[simp] theorem setCode_height (k : Fin 11) (v : Code) (d : Datapath) : (setCode k v d).height = d.height := rfl
@[simp] theorem setCode_pixbase (k : Fin 11) (v : Code) (d : Datapath) : (setCode k v d).pixbase = d.pixbase := rfl
@[simp] theorem setCode_rowsel (k : Fin 11) (v : Code) (d : Datapath) : (setCode k v d).rowsel = d.rowsel := rfl
@[simp] theorem setCode_rowaddr (k : Fin 11) (v : Code) (d : Datapath) : (setCode k v d).rowaddr = d.rowaddr := rfl
@[simp] theorem setCode_cursor (k : Fin 11) (v : Code) (d : Datapath) : (setCode k v d).cursor = d.cursor := rfl
@[simp] theorem setCode_modw (k : Fin 11) (v : Code) (d : Datapath) : (setCode k v d).modw = d.modw := rfl
@[simp] theorem setCode_result (k : Fin 11) (v : Code) (d : Datapath) : (setCode k v d).result = d.result := rfl
@[simp] theorem setCode_digits (k : Fin 11) (v : Code) (d : Datapath) : (setCode k v d).digits = d.digits := rfl
@[simp] theorem setCode_codes (k : Fin 11) (v : Code) (d : Datapath) : (setCode k v d).codes = d.codes.set k v := rfl
@[simp] theorem setCode_sl (k : Fin 11) (v : Code) (d : Datapath) : (setCode k v d).sl = d.sl := rfl
@[simp] theorem setCode_capPred (k : Fin 11) (v : Code) (d : Datapath) : (setCode k v d).capPred = d.capPred := rfl
@[simp] theorem setCode_mem (k : Fin 11) (v : Code) (d : Datapath) : (setCode k v d).mem = d.mem := rfl
@[simp] theorem setCode_errs (k : Fin 11) (v : Code) (d : Datapath) : (setCode k v d).errs = d.errs := rfl
@[simp] theorem setCode_pixReads (k : Fin 11) (v : Code) (d : Datapath) : (setCode k v d).pixReads = d.pixReads := rfl
@[simp] theorem setCode_draws (k : Fin 11) (v : Code) (d : Datapath) : (setCode k v d).draws = d.draws := rfl

@[simp] theorem endMeasure_ie (p n : Nat) (d : Datapath) : (endMeasure p n d).ie = d.ie := rfl
@[simp] theorem endMeasure_status (p n : Nat) (d : Datapath) : (endMeasure p n d).status = { d.status with nobar := noBar n } := rfl
@[simp] theorem endMeasure_offset (p n : Nat) (d : Datapath) : (endMeasure p n d).offset = d.offset := rfl
@[simp] theorem endMeasure_width (p n : Nat) (d : Datapath) : (endMeasure p n d).width = d.width := rfl
@[simp] theorem endMeasure_height (p n : Nat) (d : Datapath) : (endMeasure p n d).height = d.height := rfl
@[simp] theorem endMeasure_pixbase (p n : Nat) (d : Datapath) : (endMeasure p n d).pixbase = d.pixbase := rfl
@[simp] theorem endMeasure_rowsel (p n : Nat) (d : Datapath) : (endMeasure p n d).rowsel = d.rowsel := rfl
@[simp] theorem endMeasure_rowaddr (p n : Nat) (d : Datapath) : (endMeasure p n d).rowaddr = d.rowaddr := rfl
@[simp] theorem endMeasure_cursor (p n : Nat) (d : Datapath) : (endMeasure p n d).cursor = BitVec.ofNat 32 p := rfl
@[simp] theorem endMeasure_modw (p n : Nat) (d : Datapath) : (endMeasure p n d).modw = BitVec.ofNat 32 n := rfl
@[simp] theorem endMeasure_result (p n : Nat) (d : Datapath) : (endMeasure p n d).result = d.result := rfl
@[simp] theorem endMeasure_digits (p n : Nat) (d : Datapath) : (endMeasure p n d).digits = d.digits := rfl
@[simp] theorem endMeasure_codes (p n : Nat) (d : Datapath) : (endMeasure p n d).codes = d.codes := rfl
@[simp] theorem endMeasure_sl (p n : Nat) (d : Datapath) : (endMeasure p n d).sl = d.sl := rfl
@[simp] theorem endMeasure_capPred (p n : Nat) (d : Datapath) : (endMeasure p n d).capPred = d.capPred := rfl
@[simp] theorem endMeasure_mem (p n : Nat) (d : Datapath) : (endMeasure p n d).mem = d.mem := rfl
@[simp] theorem endMeasure_errs (p n : Nat) (d : Datapath) : (endMeasure p n d).errs = d.errs := rfl
@[simp] theorem endMeasure_pixReads (p n : Nat) (d : Datapath) : (endMeasure p n d).pixReads = d.pixReads := rfl
@[simp] theorem endMeasure_draws (p n : Nat) (d : Datapath) : (endMeasure p n d).draws = d.draws := rfl

@[simp] theorem endClassify_ie (c : Colour) (d : Datapath) : (endClassify c d).ie = d.ie := rfl
@[simp] theorem endClassify_status (c : Colour) (d : Datapath) : (endClassify c d).status = { d.status with clsbit := c } := rfl
@[simp] theorem endClassify_offset (c : Colour) (d : Datapath) : (endClassify c d).offset = d.offset := rfl
@[simp] theorem endClassify_width (c : Colour) (d : Datapath) : (endClassify c d).width = d.width := rfl
@[simp] theorem endClassify_height (c : Colour) (d : Datapath) : (endClassify c d).height = d.height := rfl
@[simp] theorem endClassify_pixbase (c : Colour) (d : Datapath) : (endClassify c d).pixbase = d.pixbase := rfl
@[simp] theorem endClassify_rowsel (c : Colour) (d : Datapath) : (endClassify c d).rowsel = d.rowsel := rfl
@[simp] theorem endClassify_rowaddr (c : Colour) (d : Datapath) : (endClassify c d).rowaddr = d.rowaddr := rfl
@[simp] theorem endClassify_cursor (c : Colour) (d : Datapath) : (endClassify c d).cursor = d.cursor := rfl
@[simp] theorem endClassify_modw (c : Colour) (d : Datapath) : (endClassify c d).modw = d.modw := rfl
@[simp] theorem endClassify_result (c : Colour) (d : Datapath) : (endClassify c d).result = d.result := rfl
@[simp] theorem endClassify_digits (c : Colour) (d : Datapath) : (endClassify c d).digits = d.digits := rfl
@[simp] theorem endClassify_codes (c : Colour) (d : Datapath) : (endClassify c d).codes = d.codes := rfl
@[simp] theorem endClassify_sl (c : Colour) (d : Datapath) : (endClassify c d).sl = d.sl := rfl
@[simp] theorem endClassify_capPred (c : Colour) (d : Datapath) : (endClassify c d).capPred = d.capPred := rfl
@[simp] theorem endClassify_mem (c : Colour) (d : Datapath) : (endClassify c d).mem = d.mem := rfl
@[simp] theorem endClassify_errs (c : Colour) (d : Datapath) : (endClassify c d).errs = d.errs := rfl
@[simp] theorem endClassify_pixReads (c : Colour) (d : Datapath) : (endClassify c d).pixReads = d.pixReads := rfl
@[simp] theorem endClassify_draws (c : Colour) (d : Datapath) : (endClassify c d).draws = d.draws := rfl

@[simp] theorem endTranslate_ie (r : Result) (ds : List (Fin 10)) (d : Datapath) : (endTranslate r ds d).ie = d.ie := rfl
@[simp] theorem endTranslate_status (r : Result) (ds : List (Fin 10)) (d : Datapath) : (endTranslate r ds d).status = d.status := rfl
@[simp] theorem endTranslate_offset (r : Result) (ds : List (Fin 10)) (d : Datapath) : (endTranslate r ds d).offset = d.offset := rfl
@[simp] theorem endTranslate_width (r : Result) (ds : List (Fin 10)) (d : Datapath) : (endTranslate r ds d).width = d.width := rfl
@[simp] theorem endTranslate_height (r : Result) (ds : List (Fin 10)) (d : Datapath) : (endTranslate r ds d).height = d.height := rfl
@[simp] theorem endTranslate_pixbase (r : Result) (ds : List (Fin 10)) (d : Datapath) : (endTranslate r ds d).pixbase = d.pixbase := rfl
@[simp] theorem endTranslate_rowsel (r : Result) (ds : List (Fin 10)) (d : Datapath) : (endTranslate r ds d).rowsel = d.rowsel := rfl
@[simp] theorem endTranslate_rowaddr (r : Result) (ds : List (Fin 10)) (d : Datapath) : (endTranslate r ds d).rowaddr = d.rowaddr := rfl
@[simp] theorem endTranslate_cursor (r : Result) (ds : List (Fin 10)) (d : Datapath) : (endTranslate r ds d).cursor = d.cursor := rfl
@[simp] theorem endTranslate_modw (r : Result) (ds : List (Fin 10)) (d : Datapath) : (endTranslate r ds d).modw = d.modw := rfl
@[simp] theorem endTranslate_result (r : Result) (ds : List (Fin 10)) (d : Datapath) : (endTranslate r ds d).result = r := rfl
@[simp] theorem endTranslate_digits (r : Result) (ds : List (Fin 10)) (d : Datapath) : (endTranslate r ds d).digits = if r = .ok then packDigits ds else noDigits := rfl
@[simp] theorem endTranslate_codes (r : Result) (ds : List (Fin 10)) (d : Datapath) : (endTranslate r ds d).codes = d.codes := rfl
@[simp] theorem endTranslate_sl (r : Result) (ds : List (Fin 10)) (d : Datapath) : (endTranslate r ds d).sl = d.sl := rfl
@[simp] theorem endTranslate_capPred (r : Result) (ds : List (Fin 10)) (d : Datapath) : (endTranslate r ds d).capPred = d.capPred := rfl
@[simp] theorem endTranslate_mem (r : Result) (ds : List (Fin 10)) (d : Datapath) : (endTranslate r ds d).mem = d.mem := rfl
@[simp] theorem endTranslate_errs (r : Result) (ds : List (Fin 10)) (d : Datapath) : (endTranslate r ds d).errs = d.errs := rfl
@[simp] theorem endTranslate_pixReads (r : Result) (ds : List (Fin 10)) (d : Datapath) : (endTranslate r ds d).pixReads = d.pixReads := rfl
@[simp] theorem endTranslate_draws (r : Result) (ds : List (Fin 10)) (d : Datapath) : (endTranslate r ds d).draws = d.draws := rfl

@[simp] theorem selectRow_ie (d : Datapath) : (selectRow d).ie = d.ie := rfl
@[simp] theorem selectRow_status (d : Datapath) : (selectRow d).status = d.status := rfl
@[simp] theorem selectRow_offset (d : Datapath) : (selectRow d).offset = d.offset := rfl
@[simp] theorem selectRow_width (d : Datapath) : (selectRow d).width = d.width := rfl
@[simp] theorem selectRow_height (d : Datapath) : (selectRow d).height = d.height := rfl
@[simp] theorem selectRow_pixbase (d : Datapath) : (selectRow d).pixbase = d.pixbase := rfl
@[simp] theorem selectRow_rowsel (d : Datapath) : (selectRow d).rowsel = BitVec.ofNat 32 (logicalRow d) := rfl
@[simp] theorem selectRow_rowaddr (d : Datapath) : (selectRow d).rowaddr = rowAddress d := rfl
@[simp] theorem selectRow_cursor (d : Datapath) : (selectRow d).cursor = d.cursor := rfl
@[simp] theorem selectRow_modw (d : Datapath) : (selectRow d).modw = d.modw := rfl
@[simp] theorem selectRow_result (d : Datapath) : (selectRow d).result = d.result := rfl
@[simp] theorem selectRow_digits (d : Datapath) : (selectRow d).digits = d.digits := rfl
@[simp] theorem selectRow_codes (d : Datapath) : (selectRow d).codes = d.codes := rfl
@[simp] theorem selectRow_sl (d : Datapath) : (selectRow d).sl = d.sl := rfl
@[simp] theorem selectRow_capPred (d : Datapath) : (selectRow d).capPred = d.capPred := rfl
@[simp] theorem selectRow_mem (d : Datapath) : (selectRow d).mem = d.mem := rfl
@[simp] theorem selectRow_errs (d : Datapath) : (selectRow d).errs = d.errs := rfl
@[simp] theorem selectRow_pixReads (d : Datapath) : (selectRow d).pixReads = d.pixReads := rfl
@[simp] theorem selectRow_draws (d : Datapath) : (selectRow d).draws = d.draws := rfl

@[simp] theorem acceptFlags_ie (d : Datapath) : (acceptFlags d).ie = d.ie := rfl
@[simp] theorem acceptFlags_status (d : Datapath) : (acceptFlags d).status = { d.status with done := false } := rfl
@[simp] theorem acceptFlags_offset (d : Datapath) : (acceptFlags d).offset = d.offset := rfl
@[simp] theorem acceptFlags_width (d : Datapath) : (acceptFlags d).width = d.width := rfl
@[simp] theorem acceptFlags_height (d : Datapath) : (acceptFlags d).height = d.height := rfl
@[simp] theorem acceptFlags_pixbase (d : Datapath) : (acceptFlags d).pixbase = d.pixbase := rfl
@[simp] theorem acceptFlags_rowsel (d : Datapath) : (acceptFlags d).rowsel = d.rowsel := rfl
@[simp] theorem acceptFlags_rowaddr (d : Datapath) : (acceptFlags d).rowaddr = d.rowaddr := rfl
@[simp] theorem acceptFlags_cursor (d : Datapath) : (acceptFlags d).cursor = d.cursor := rfl
@[simp] theorem acceptFlags_modw (d : Datapath) : (acceptFlags d).modw = d.modw := rfl
@[simp] theorem acceptFlags_result (d : Datapath) : (acceptFlags d).result = d.result := rfl
@[simp] theorem acceptFlags_digits (d : Datapath) : (acceptFlags d).digits = d.digits := rfl
@[simp] theorem acceptFlags_codes (d : Datapath) : (acceptFlags d).codes = d.codes := rfl
@[simp] theorem acceptFlags_sl (d : Datapath) : (acceptFlags d).sl = d.sl := rfl
@[simp] theorem acceptFlags_capPred (d : Datapath) : (acceptFlags d).capPred = d.capPred := rfl
@[simp] theorem acceptFlags_mem (d : Datapath) : (acceptFlags d).mem = d.mem := rfl
@[simp] theorem acceptFlags_errs (d : Datapath) : (acceptFlags d).errs = d.errs := rfl
@[simp] theorem acceptFlags_pixReads (d : Datapath) : (acceptFlags d).pixReads = [] := rfl
@[simp] theorem acceptFlags_draws (d : Datapath) : (acceptFlags d).draws = d.draws := rfl

@[simp] theorem drawBit_ie (d : Datapath) : (drawBit d).2.ie = d.ie := rfl
@[simp] theorem drawBit_status (d : Datapath) : (drawBit d).2.status = d.status := rfl
@[simp] theorem drawBit_offset (d : Datapath) : (drawBit d).2.offset = d.offset := rfl
@[simp] theorem drawBit_width (d : Datapath) : (drawBit d).2.width = d.width := rfl
@[simp] theorem drawBit_height (d : Datapath) : (drawBit d).2.height = d.height := rfl
@[simp] theorem drawBit_pixbase (d : Datapath) : (drawBit d).2.pixbase = d.pixbase := rfl
@[simp] theorem drawBit_rowsel (d : Datapath) : (drawBit d).2.rowsel = d.rowsel := rfl
@[simp] theorem drawBit_rowaddr (d : Datapath) : (drawBit d).2.rowaddr = d.rowaddr := rfl
@[simp] theorem drawBit_cursor (d : Datapath) : (drawBit d).2.cursor = d.cursor := rfl
@[simp] theorem drawBit_modw (d : Datapath) : (drawBit d).2.modw = d.modw := rfl
@[simp] theorem drawBit_result (d : Datapath) : (drawBit d).2.result = d.result := rfl
@[simp] theorem drawBit_digits (d : Datapath) : (drawBit d).2.digits = d.digits := rfl
@[simp] theorem drawBit_codes (d : Datapath) : (drawBit d).2.codes = d.codes := rfl
@[simp] theorem drawBit_sl (d : Datapath) : (drawBit d).2.sl = d.sl := rfl
@[simp] theorem drawBit_capPred (d : Datapath) : (drawBit d).2.capPred = d.capPred := rfl
@[simp] theorem drawBit_mem (d : Datapath) : (drawBit d).2.mem = d.mem := rfl
@[simp] theorem drawBit_errs (d : Datapath) : (drawBit d).2.errs = d.errs := rfl
@[simp] theorem drawBit_pixReads (d : Datapath) : (drawBit d).2.pixReads = d.pixReads := rfl
@[simp] theorem drawBit_draws (d : Datapath) : (drawBit d).2.draws = d.draws + 1 := rfl

@[simp] theorem drawByte_ie (d : Datapath) : (drawByte d).2.ie = d.ie := rfl
@[simp] theorem drawByte_status (d : Datapath) : (drawByte d).2.status = d.status := rfl
@[simp] theorem drawByte_offset (d : Datapath) : (drawByte d).2.offset = d.offset := rfl
@[simp] theorem drawByte_width (d : Datapath) : (drawByte d).2.width = d.width := rfl
@[simp] theorem drawByte_height (d : Datapath) : (drawByte d).2.height = d.height := rfl
@[simp] theorem drawByte_pixbase (d : Datapath) : (drawByte d).2.pixbase = d.pixbase := rfl
@[simp] theorem drawByte_rowsel (d : Datapath) : (drawByte d).2.rowsel = d.rowsel := rfl
@[simp] theorem drawByte_rowaddr (d : Datapath) : (drawByte d).2.rowaddr = d.rowaddr := rfl
@[simp] theorem drawByte_cursor (d : Datapath) : (drawByte d).2.cursor = d.cursor := rfl
@[simp] theorem drawByte_modw (d : Datapath) : (drawByte d).2.modw = d.modw := rfl
@[simp] theorem drawByte_result (d : Datapath) : (drawByte d).2.result = d.result := rfl
@[simp] theorem drawByte_digits (d : Datapath) : (drawByte d).2.digits = d.digits := rfl
@[simp] theorem drawByte_codes (d : Datapath) : (drawByte d).2.codes = d.codes := rfl
@[simp] theorem drawByte_sl (d : Datapath) : (drawByte d).2.sl = d.sl := rfl
@[simp] theorem drawByte_capPred (d : Datapath) : (drawByte d).2.capPred = d.capPred := rfl
@[simp] theorem drawByte_mem (d : Datapath) : (drawByte d).2.mem = d.mem := rfl
@[simp] theorem drawByte_errs (d : Datapath) : (drawByte d).2.errs = d.errs := rfl
@[simp] theorem drawByte_pixReads (d : Datapath) : (drawByte d).2.pixReads = d.pixReads := rfl
@[simp] theorem drawByte_draws (d : Datapath) : (drawByte d).2.draws = d.draws + 1 := rfl

@[simp] theorem drawWord_ie (d : Datapath) : (drawWord d).2.ie = d.ie := rfl
@[simp] theorem drawWord_status (d : Datapath) : (drawWord d).2.status = d.status := rfl
@[simp] theorem drawWord_offset (d : Datapath) : (drawWord d).2.offset = d.offset := rfl
@[simp] theorem drawWord_width (d : Datapath) : (drawWord d).2.width = d.width := rfl
@[simp] theorem drawWord_height (d : Datapath) : (drawWord d).2.height = d.height := rfl
@[simp] theorem drawWord_pixbase (d : Datapath) : (drawWord d).2.pixbase = d.pixbase := rfl
@[simp] theorem drawWord_rowsel (d : Datapath) : (drawWord d).2.rowsel = d.rowsel := rfl
@[simp] theorem drawWord_rowaddr (d : Datapath) : (drawWord d).2.rowaddr = d.rowaddr := rfl
@[simp] theorem drawWord_cursor (d : Datapath) : (drawWord d).2.cursor = d.cursor := rfl
@[simp] theorem drawWord_modw (d : Datapath) : (drawWord d).2.modw = d.modw := rfl
@[simp] theorem drawWord_result (d : Datapath) : (drawWord d).2.result = d.result := rfl
@[simp] theorem drawWord_digits (d : Datapath) : (drawWord d).2.digits = d.digits := rfl
@[simp] theorem drawWord_codes (d : Datapath) : (drawWord d).2.codes = d.codes := rfl
@[simp] theorem drawWord_sl (d : Datapath) : (drawWord d).2.sl = d.sl := rfl
@[simp] theorem drawWord_capPred (d : Datapath) : (drawWord d).2.capPred = d.capPred := rfl
@[simp] theorem drawWord_mem (d : Datapath) : (drawWord d).2.mem = d.mem := rfl
@[simp] theorem drawWord_errs (d : Datapath) : (drawWord d).2.errs = d.errs := rfl
@[simp] theorem drawWord_pixReads (d : Datapath) : (drawWord d).2.pixReads = d.pixReads := rfl
@[simp] theorem drawWord_draws (d : Datapath) : (drawWord d).2.draws = d.draws + 1 := rfl

@[simp] theorem resetRegisters_ie (d : Datapath) : d.resetRegisters.ie = false := rfl
@[simp] theorem resetRegisters_status (d : Datapath) : d.resetRegisters.status = {} := rfl
@[simp] theorem resetRegisters_offset (d : Datapath) : d.resetRegisters.offset = 2 := rfl
@[simp] theorem resetRegisters_width (d : Datapath) : d.resetRegisters.width = 0 := rfl
@[simp] theorem resetRegisters_height (d : Datapath) : d.resetRegisters.height = 0 := rfl
@[simp] theorem resetRegisters_pixbase (d : Datapath) : d.resetRegisters.pixbase = 0 := rfl
@[simp] theorem resetRegisters_rowsel (d : Datapath) : d.resetRegisters.rowsel = 0 := rfl
@[simp] theorem resetRegisters_rowaddr (d : Datapath) : d.resetRegisters.rowaddr = 0 := rfl
@[simp] theorem resetRegisters_cursor (d : Datapath) : d.resetRegisters.cursor = 0 := rfl
@[simp] theorem resetRegisters_modw (d : Datapath) : d.resetRegisters.modw = 0 := rfl
@[simp] theorem resetRegisters_result (d : Datapath) : d.resetRegisters.result = .none := rfl
@[simp] theorem resetRegisters_digits (d : Datapath) : d.resetRegisters.digits = noDigits := rfl
@[simp] theorem resetRegisters_codes (d : Datapath) : d.resetRegisters.codes = Vector.replicate 11 0 := rfl
@[simp] theorem resetRegisters_sl (d : Datapath) : d.resetRegisters.sl = d.sl := rfl
@[simp] theorem resetRegisters_capPred (d : Datapath) : d.resetRegisters.capPred = d.capPred := rfl
@[simp] theorem resetRegisters_mem (d : Datapath) : d.resetRegisters.mem = d.mem := rfl
@[simp] theorem resetRegisters_errs (d : Datapath) : d.resetRegisters.errs = d.errs := rfl
@[simp] theorem resetRegisters_pixReads (d : Datapath) : d.resetRegisters.pixReads = d.pixReads := rfl
@[simp] theorem resetRegisters_draws (d : Datapath) : d.resetRegisters.draws = d.draws := rfl

@[simp] theorem resetInput_ie (d : Datapath) : d.resetInput.ie = false := rfl
@[simp] theorem resetInput_status (d : Datapath) : d.resetInput.status = {} := rfl
@[simp] theorem resetInput_offset (d : Datapath) : d.resetInput.offset = 2 := rfl
@[simp] theorem resetInput_width (d : Datapath) : d.resetInput.width = 0 := rfl
@[simp] theorem resetInput_height (d : Datapath) : d.resetInput.height = 0 := rfl
@[simp] theorem resetInput_pixbase (d : Datapath) : d.resetInput.pixbase = 0 := rfl
@[simp] theorem resetInput_rowsel (d : Datapath) : d.resetInput.rowsel = 0 := rfl
@[simp] theorem resetInput_rowaddr (d : Datapath) : d.resetInput.rowaddr = 0 := rfl
@[simp] theorem resetInput_cursor (d : Datapath) : d.resetInput.cursor = 0 := rfl
@[simp] theorem resetInput_modw (d : Datapath) : d.resetInput.modw = 0 := rfl
@[simp] theorem resetInput_result (d : Datapath) : d.resetInput.result = .none := rfl
@[simp] theorem resetInput_digits (d : Datapath) : d.resetInput.digits = noDigits := rfl
@[simp] theorem resetInput_codes (d : Datapath) : d.resetInput.codes = Vector.replicate 11 0 := rfl
@[simp] theorem resetInput_sl (d : Datapath) : d.resetInput.sl = [] := rfl
@[simp] theorem resetInput_capPred (d : Datapath) : d.resetInput.capPred = d.capPred := rfl
@[simp] theorem resetInput_mem (d : Datapath) : d.resetInput.mem = d.mem := rfl
@[simp] theorem resetInput_errs (d : Datapath) : d.resetInput.errs = d.errs := rfl
@[simp] theorem resetInput_pixReads (d : Datapath) : d.resetInput.pixReads = d.pixReads := rfl
@[simp] theorem resetInput_draws (d : Datapath) : d.resetInput.draws = d.draws := rfl

@[simp] theorem accept_dp (op : Op) (s : State) : (accept op s).dp = acceptFlags s.dp := rfl
@[simp] theorem accept_seq (op : Op) (s : State) : (accept op s).seq = .busy op .start {} := rfl
@[simp] theorem accept_resp (op : Op) (s : State) : (accept op s).resp = s.resp := rfl
@[simp] theorem accept_host (op : Op) (s : State) : (accept op s).host = s.host := rfl

@[simp] theorem busyWrite_dp (s : State) : (busyWrite s).dp = { s.dp with status := { s.dp.status with busywr := true } } := rfl
@[simp] theorem busyWrite_seq (s : State) : (busyWrite s).seq = s.seq := rfl
@[simp] theorem busyWrite_resp (s : State) : (busyWrite s).resp = s.resp := rfl
@[simp] theorem busyWrite_host (s : State) : (busyWrite s).host = s.host := rfl

@[simp] theorem resetInput_state_dp (s : State) : (resetInput s).dp = s.dp.resetInput := rfl
@[simp] theorem resetInput_state_seq (s : State) : (resetInput s).seq = .idle := rfl
@[simp] theorem resetInput_state_resp (s : State) : (resetInput s).resp = s.resp := rfl
@[simp] theorem resetInput_state_host (s : State) : (resetInput s).host = s.host := rfl

@[simp] theorem storePixel_dp (a : Word) (b : Byte) (s : State) : (storePixel a b s).dp = { s.dp with mem := sparseSet s.dp.mem a.toNat b } := rfl
@[simp] theorem storePixel_seq (a : Word) (b : Byte) (s : State) : (storePixel a b s).seq = s.seq := rfl
@[simp] theorem storePixel_resp (a : Word) (b : Byte) (s : State) : (storePixel a b s).resp = s.resp := rfl
@[simp] theorem storePixel_host (a : Word) (b : Byte) (s : State) : (storePixel a b s).host = s.host := rfl

@[simp] theorem statusWriteBusy_dp (op : Op) (pos : Pos) (hz : Hazard) (v : Word) (s : State) : (statusWriteBusy op pos hz v s).dp = { s.dp with status := w1cWrite v s.dp.status } := rfl
@[simp] theorem statusWriteBusy_seq (op : Op) (pos : Pos) (hz : Hazard) (v : Word) (s : State) : (statusWriteBusy op pos hz v s).seq = .busy op pos { hz with raced := hz.raced.union ((w1cFields v).inter (mayWriteStatus op)) } := rfl
@[simp] theorem statusWriteBusy_resp (op : Op) (pos : Pos) (hz : Hazard) (v : Word) (s : State) : (statusWriteBusy op pos hz v s).resp = s.resp := rfl
@[simp] theorem statusWriteBusy_host (op : Op) (pos : Pos) (hz : Hazard) (v : Word) (s : State) : (statusWriteBusy op pos hz v s).host = s.host := rfl

@[simp] theorem writeCell_scanMax (i : Nat) (c : Colour) (d : Datapath) : (writeCell i c d).scanMax = d.scanMax := rfl
@[simp] theorem setCode_scanMax (k : Fin 11) (v : Code) (d : Datapath) : (setCode k v d).scanMax = d.scanMax := rfl
@[simp] theorem endMeasure_scanMax (p n : Nat) (d : Datapath) : (endMeasure p n d).scanMax = d.scanMax := rfl
@[simp] theorem endClassify_scanMax (c : Colour) (d : Datapath) : (endClassify c d).scanMax = d.scanMax := rfl
@[simp] theorem endTranslate_scanMax (r : Result) (ds : List (Fin 10)) (d : Datapath) : (endTranslate r ds d).scanMax = d.scanMax := rfl
@[simp] theorem selectRow_scanMax (d : Datapath) : (selectRow d).scanMax = d.scanMax := rfl
@[simp] theorem acceptFlags_scanMax (d : Datapath) : (acceptFlags d).scanMax = d.scanMax := rfl
@[simp] theorem drawBit_scanMax (d : Datapath) : (drawBit d).2.scanMax = d.scanMax := rfl
@[simp] theorem drawByte_scanMax (d : Datapath) : (drawByte d).2.scanMax = d.scanMax := rfl
@[simp] theorem drawWord_scanMax (d : Datapath) : (drawWord d).2.scanMax = d.scanMax := rfl
@[simp] theorem resetRegisters_scanMax (d : Datapath) : d.resetRegisters.scanMax = d.scanMax := rfl
@[simp] theorem resetInput_scanMax (d : Datapath) : d.resetInput.scanMax = d.scanMax := rfl

end Sys2Proof.Machine
end

