-- ==== Sys2Proof/Laws/Reads.lean ====
section
/-! SUPPORT. What the reads of the scanline and of pixel memory can do, each said once. -/

namespace Sys2Proof.Machine

@[simp] theorem drawBit_fst (d : Datapath) : (drawBit d).1 = Config.freeBit d.draws := rfl
@[simp] theorem drawByte_fst (d : Datapath) : (drawByte d).1 = Config.freeByte d.draws := rfl
@[simp] theorem drawWord_fst (d : Datapath) : (drawWord d).1 = Config.freeWord d.draws := rfl

/-- The one bit of `flagBit b n` (R12, R28). -/
theorem flagBit_getLsbD (b : Bool) {n : Nat} (hn : n < 32) (i : Nat) :
    (flagBit b n).getLsbD i = (b && decide (i = n)) := by
  have h : flagBit b n = if b then BitVec.twoPow 32 n else 0 := by
    cases b
    · rfl
    · apply BitVec.eq_of_toNat_eq; simp [flagBit, Nat.one_shiftLeft]
  rw [h]
  cases b
  · simp
  · simp only [if_true, BitVec.getLsbD_twoPow, Bool.true_and, hn, decide_true]
    exact decide_eq_decide.2 eq_comm

/-- A written cell reads as its value and nothing changes (R43). -/
theorem readCell_written {i : Nat} {d : Datapath} {c : Colour} (h : sparseGet d.sl i = some c) :
    readCell i d = (c, d) := by
  simp [readCell, h]

/-- All `readCell` can do: the written value and no change, or one draw (R43, R191). -/
theorem readCell_cases (i : Nat) (d : Datapath) :
    (∃ c, sparseGet d.sl i = some c ∧ readCell i d = (c, d)) ∨
      (sparseGet d.sl i = none ∧
        readCell i d = (Config.freeBit d.draws, { d with draws := d.draws + 1 })) := by
  cases h : sparseGet d.sl i with
  | some c => exact .inl ⟨c, rfl, readCell_written h⟩
  | none => exact .inr ⟨rfl, by simp [readCell, h, drawBit]⟩

/-- `readCell` changes the draw counter at most, by one at most. -/
theorem readCell_frame (i : Nat) (d : Datapath) :
    ∃ n, d.draws ≤ n ∧ n ≤ d.draws + 1 ∧ (readCell i d).2 = { d with draws := n } := by
  rcases readCell_cases i d with ⟨c, -, h⟩ | ⟨-, h⟩
  · exact ⟨d.draws, Nat.le_refl _, Nat.le_succ _, by rw [h]⟩
  · exact ⟨d.draws + 1, Nat.le_succ _, Nat.le_refl _, by rw [h]⟩

/-- `SLRead` of a written cell inside `[0, W)` (R110). -/
theorem slRead_written {i : Nat} {d : Datapath} {c : Colour} (hi : i < scanWidth d)
    (h : sparseGet d.sl i = some c) : slRead i d = (c, d) := by
  have : (0 : Int) ≤ i ∧ (i : Int) < d.width.toInt := by
    simp only [scanWidth] at hi; omega
  simp [slRead, this, readCell_written h]

/-- `SLRead` outside `[0, W)`: a draw, and `OOB` (R110). -/
theorem slRead_out {i : Int} {d : Datapath} (h : ¬(0 ≤ i ∧ i < d.width.toInt)) :
    slRead i d =
      (Config.freeBit d.draws,
        { d with status := { d.status with oob := true }, draws := d.draws + 1 }) := by
  simp only [slRead, if_neg h, drawBit]

/-- All `SLRead` can change: `OOB`, which it never clears, and the draw counter (R110). -/
theorem slRead_frame (i : Int) (d : Datapath) :
    ∃ o n, (d.status.oob = true → o = true) ∧ d.draws ≤ n ∧
      (slRead i d).2 = { d with status := { d.status with oob := o }, draws := n } := by
  by_cases h : 0 ≤ i ∧ i < d.width.toInt
  · obtain ⟨n, hn, -, e⟩ := readCell_frame i.toNat d
    exact ⟨d.status.oob, n, id, hn, by simp [slRead, h, e]⟩
  · exact ⟨true, d.draws + 1, fun _ => rfl, Nat.le_succ _, by rw [slRead_out h]⟩

/-- All `MemRead` can do (R62): an error response, or a byte; the byte is the one written there when the
read races no write, else a draw. The address is issued on the port. -/
theorem memRead_cases (race : Bool) (a : Word) (d : Datapath) :
    (pixelError d.errs a = true ∧ memRead race a d = (none, { d with pixReads := d.pixReads ++ [a] })) ∨
    (pixelError d.errs a = false ∧ race = false ∧ ∃ b, sparseGet d.mem a.toNat = some b ∧
      memRead race a d = (some b, { d with pixReads := d.pixReads ++ [a] })) ∨
    (pixelError d.errs a = false ∧ (race = true ∨ sparseGet d.mem a.toNat = none) ∧
      memRead race a d = (some (Config.freeByte d.draws),
        { d with pixReads := d.pixReads ++ [a], draws := d.draws + 1 })) := by
  cases he : pixelError d.errs a with
  | true => exact .inl ⟨rfl, by simp [memRead, he]⟩
  | false =>
    refine .inr ?_
    cases race with
    | true => exact .inr ⟨rfl, .inl rfl, by simp [memRead, he, drawByte]⟩
    | false =>
      cases hg : sparseGet d.mem a.toNat with
      | some b => exact .inl ⟨rfl, rfl, b, rfl, by simp [memRead, he, hg]⟩
      | none => exact .inr ⟨rfl, .inr rfl, by simp [memRead, he, hg, drawByte]⟩

/-- A byte that answers without error, is written, and races nothing (R62). -/
theorem memRead_written {a : Word} {d : Datapath} {b : Byte} (he : pixelError d.errs a = false)
    (h : sparseGet d.mem a.toNat = some b) :
    memRead false a d = (some b, { d with pixReads := d.pixReads ++ [a] }) := by
  simp [memRead, he, h]

/-! The cells of one pixel byte. -/

/-- `storeBit` writes the scanline at most, cells below `W` only. -/
theorem storeBit_frame (j : Nat) (b : Byte) (d : Datapath) (t : Nat) :
    ∃ sl, storeBit j b d t = { d with sl := sl } := by
  unfold storeBit
  split
  · exact ⟨_, rfl⟩
  · exact ⟨d.sl, rfl⟩

/-- What a cell holds after `storeBit` (R103). -/
theorem storeBit_get (j : Nat) (b : Byte) (d : Datapath) (t x : Nat) :
    sparseGet (storeBit j b d t).sl x =
      if x = 8 * j + t ∧ x < scanWidth d then some (b.getLsbD (7 - t)) else sparseGet d.sl x := by
  unfold storeBit
  by_cases h : 8 * j + t < scanWidth d
  · by_cases hx : x = 8 * j + t
    · simp [h, hx]
    · simp [h, hx, sparseGet_set_other]
  · by_cases hx : x = 8 * j + t
    · simp [hx, h]
    · simp [h, hx]

/-- `storeByte` writes the scanline at most. -/
theorem storeByte_frame (j : Nat) (b : Byte) (d : Datapath) :
    ∃ sl, storeByte j b d = { d with sl := sl } := by
  have key : ∀ (ts : List Nat) (d : Datapath), ∃ sl, ts.foldl (storeBit j b) d = { d with sl := sl } := by
    intro ts
    induction ts with
    | nil => exact fun d => ⟨d.sl, rfl⟩
    | cons t ts ih =>
      intro d
      obtain ⟨s1, h1⟩ := storeBit_frame j b d t
      obtain ⟨s2, h2⟩ := ih (storeBit j b d t)
      exact ⟨s2, by rw [List.foldl_cons, h2, h1]⟩
  exact key _ d

/-- What a cell holds after `storeByte`: the byte's bit, most significant first, below `W`; every other cell
stays (R64, R103). -/
theorem storeByte_get (j : Nat) (b : Byte) (d : Datapath) (x : Nat) :
    sparseGet (storeByte j b d).sl x =
      if x / 8 = j ∧ x < scanWidth d then some (b.getLsbD (7 - x % 8)) else sparseGet d.sl x := by
  have key : ∀ (ts : List Nat) (d : Datapath), (∀ t ∈ ts, t < 8) →
      sparseGet (ts.foldl (storeBit j b) d).sl x =
        if (x / 8 = j ∧ x % 8 ∈ ts) ∧ x < scanWidth d then some (b.getLsbD (7 - x % 8))
        else sparseGet d.sl x := by
    intro ts
    induction ts with
    | nil => intro d _; simp
    | cons t ts ih =>
      intro d ht
      obtain ⟨s1, h1⟩ := storeBit_frame j b d t
      have hw : scanWidth (storeBit j b d t) = scanWidth d := by rw [h1]; rfl
      rw [List.foldl_cons, ih _ fun u hu => ht u (List.mem_cons_of_mem _ hu), hw, storeBit_get]
      have ht8 := ht t List.mem_cons_self
      by_cases hx : x = 8 * j + t
      · have h8 : x / 8 = j := by omega
        have hm : x % 8 = t := by omega
        by_cases hlt : x < scanWidth d
        · have hc : (x = 8 * j + t ∧ x < scanWidth d) = True := eq_true ⟨hx, hlt⟩
          simp only [hc, if_true, hm, ite_self]
          simp [h8, hlt]
        · simp [hlt]
      · have hne : ¬(x / 8 = j ∧ x % 8 = t) := by omega
        simp only [hx, false_and, if_false, List.mem_cons]
        by_cases hj : x / 8 = j
        · have : x % 8 ≠ t := fun h => hne ⟨hj, h⟩
          simp [hj, this]
        · simp [hj]
  have h := key [0, 1, 2, 3, 4, 5, 6, 7] d (by decide)
  have hall : x % 8 ∈ [0, 1, 2, 3, 4, 5, 6, 7] := by
    have : x % 8 < 8 := Nat.mod_lt _ (by decide)
    simp only [List.mem_cons, List.not_mem_nil, or_false]
    omega
  simpa [storeByte, hall] using h

/-- `storeByte` keeps the canonical form of the scanline buffer where `W` is at most SCAN_MAX. -/
theorem storeByte_wf {j : Nat} {b : Byte} {d : Datapath} (hw : scanWidth d ≤ d.scanMax)
    (h : Scanline.wf d.scanMax d.sl = true) : Scanline.wf d.scanMax (storeByte j b d).sl = true := by
  have key : ∀ (ts : List Nat) (d' : Datapath), scanWidth d' ≤ d.scanMax → Scanline.wf d.scanMax d'.sl = true →
      Scanline.wf d.scanMax (ts.foldl (storeBit j b) d').sl = true := by
    intro ts
    induction ts with
    | nil => exact fun _ _ h => h
    | cons t ts ih =>
      intro d' hw' h'
      obtain ⟨s1, h1⟩ := storeBit_frame j b d' t
      refine ih _ (by rw [h1]; exact hw') ?_
      unfold storeBit
      split
      · next hlt => exact sparseWf_set _ (by omega) h'
      · exact h'
  exact key _ d hw h

end Sys2Proof.Machine
end

