-- ==== Sys2Proof/Laws/Bodies.lean ====
section
/-! SUPPORT. What the loops and bodies of the commands can change, each said once. -/

namespace Sys2Proof.Machine

/-! The sampler changes `OOB`, which it never clears, and the draw counter at most. -/

/-- Two sampler reads in a row (R110). -/
theorem sampler_trans {d d₁ d₂ : Datapath}
    (h₁ : ∃ o n, (d.status.oob = true → o = true) ∧ d.draws ≤ n ∧
      d₁ = { d with status := { d.status with oob := o }, draws := n })
    (h₂ : ∃ o n, (d₁.status.oob = true → o = true) ∧ d₁.draws ≤ n ∧
      d₂ = { d₁ with status := { d₁.status with oob := o }, draws := n }) :
    ∃ o n, (d.status.oob = true → o = true) ∧ d.draws ≤ n ∧
      d₂ = { d with status := { d.status with oob := o }, draws := n } := by
  obtain ⟨o₁, n₁, ho₁, hn₁, rfl⟩ := h₁
  obtain ⟨o₂, n₂, ho₂, hn₂, rfl⟩ := h₂
  exact ⟨o₂, n₂, fun h => ho₂ (ho₁ h), Nat.le_trans hn₁ hn₂, rfl⟩

/-- No read at all. -/
theorem sampler_refl (d : Datapath) :
    ∃ o n, (d.status.oob = true → o = true) ∧ d.draws ≤ n ∧
      d = { d with status := { d.status with oob := o }, draws := n } :=
  ⟨d.status.oob, d.draws, id, Nat.le_refl _, rfl⟩

/-- All one turn of the vote can do: one `SLRead`, then a decision or the counts (R115). -/
theorem voteTurn_eq (buf bw off k darks lights : Nat) (d : Datapath) :
    voteTurn buf bw off k darks lights d =
      ((if bw / 2 < (if (slRead (windowIndex buf off k) d).1 then darks else darks + 1) then .decided dark
        else if bw / 2 < (if (slRead (windowIndex buf off k) d).1 then lights + 1 else lights) then
          .decided light
        else .counted (if (slRead (windowIndex buf off k) d).1 then darks else darks + 1)
          (if (slRead (windowIndex buf off k) d).1 then lights + 1 else lights)),
        (slRead (windowIndex buf off k) d).2) := by
  simp only [voteTurn, apply_ite (fun b : Ballot => (b, (slRead (windowIndex buf off k) d).2))]

/-- One turn of the vote changes what its read changes. -/
theorem voteTurn_snd (buf bw off k darks lights : Nat) (d : Datapath) :
    (voteTurn buf bw off k darks lights d).2 = (slRead (windowIndex buf off k) d).2 := by
  rw [voteTurn_eq]

/-- The vote is a sampler (R115). -/
theorem voteLoop_frame (buf bw off : Nat) : ∀ (rem k darks lights : Nat) (d : Datapath),
    ∃ o n, (d.status.oob = true → o = true) ∧ d.draws ≤ n ∧
      (voteLoop buf bw off rem k darks lights d).2 =
        { d with status := { d.status with oob := o }, draws := n }
  | 0, _, _, _, d => sampler_refl d
  | rem + 1, k, darks, lights, d => by
    have h1 := slRead_frame (windowIndex buf off k) d
    rw [← voteTurn_snd buf bw off k darks lights d] at h1
    simp only [voteLoop]
    split
    · next e => rw [e] at h1; exact h1
    · next e =>
      rw [e] at h1
      exact sampler_trans h1 (voteLoop_frame buf bw off rem (k + 1) _ _ _)

/-- `Classify` is a sampler (R115). -/
theorem classifySpan_frame (buf bw off : Nat) (d : Datapath) :
    ∃ o n, (d.status.oob = true → o = true) ∧ d.draws ≤ n ∧
      (classifySpan buf bw off d).2 = { d with status := { d.status with oob := o }, draws := n } := by
  have h := sampler_trans (slRead_frame buf d) (slRead_frame (farIndex buf bw off) (slRead buf d).2)
  simp only [classifySpan]
  split
  · exact h
  · exact sampler_trans h (voteLoop_frame buf bw off bw 0 0 0 _)

/-- The modules of one segment: the cursor moves by the module width each, and the rest is a sampler
(R126, R129). -/
theorem sampleModules_frame (bw : Word) (off : Nat) : ∀ (m : Nat) (acc : Code) (c : Word) (d : Datapath),
    (sampleModules bw off m acc c d).1.2 = c + BitVec.ofNat 32 m * bw ∧
      ∃ o n, (d.status.oob = true → o = true) ∧ d.draws ≤ n ∧
        (sampleModules bw off m acc c d).2 = { d with status := { d.status with oob := o }, draws := n }
  | 0, acc, c, d => ⟨by simp [sampleModules], sampler_refl d⟩
  | m + 1, acc, c, d => by
    obtain ⟨hc, hd⟩ := sampleModules_frame bw off m
      (shiftIn acc (classifySpan c.toNat bw.toNat off d).1) (c + bw) (classifySpan c.toNat bw.toNat off d).2
    refine ⟨?_, sampler_trans (classifySpan_frame c.toNat bw.toNat off d) hd⟩
    have : BitVec.ofNat 32 (m + 1) = BitVec.ofNat 32 m + 1 := by
      apply BitVec.eq_of_toNat_eq; simp [BitVec.toNat_add, BitVec.toNat_ofNat]
    simp only [sampleModules]
    rw [hc, this]
    ring

/-- The segments: `CODE`, `OOB` and the draw counter (R126). -/
theorem sampleSegments_frame (bw : Word) (off : Nat) : ∀ (ks : List (Fin 11)) (c : Word) (d : Datapath),
    (sampleSegments bw off ks c d).1 = c + BitVec.ofNat 32 (ks.map segLen).sum * bw ∧
      ∃ codes o n, (d.status.oob = true → o = true) ∧ d.draws ≤ n ∧
        (sampleSegments bw off ks c d).2 =
          { d with codes := codes, status := { d.status with oob := o }, draws := n }
  | [], c, d => ⟨by simp [sampleSegments], d.codes, d.status.oob, d.draws, id, Nat.le_refl _, rfl⟩
  | k :: ks, c, d => by
    obtain ⟨hc, o₁, n₁, ho₁, hn₁, hd⟩ := sampleModules_frame bw off (segLen k) 0 c d
    obtain ⟨hc₂, codes, o₂, n₂, ho₂, hn₂, hd₂⟩ := sampleSegments_frame bw off ks
      (sampleModules bw off (segLen k) 0 c d).1.2
      (setCode k (sampleModules bw off (segLen k) 0 c d).1.1 (sampleModules bw off (segLen k) 0 c d).2)
    constructor
    · simp only [sampleSegments]
      rw [hc₂, hc]
      have : BitVec.ofNat 32 ((k :: ks).map segLen).sum
          = BitVec.ofNat 32 (segLen k) + BitVec.ofNat 32 (ks.map segLen).sum := by
        apply BitVec.eq_of_toNat_eq; simp [BitVec.toNat_add, BitVec.toNat_ofNat]
      rw [this]
      ring
    · refine ⟨codes, o₂, n₂, fun h => ho₂ ?_, ?_, ?_⟩
      · rw [hd]; exact ho₁ h
      · rw [hd] at hn₂; exact Nat.le_trans hn₁ hn₂
      · simp only [sampleSegments]
        rw [hd₂, hd]
        rfl

/-! MEASURE's scans. -/

/-- The margin skip stops between its start and `W`, only draws, and reads each cell it passes once, and the
cell that stops it (R111, R112, R211). -/
theorem skipLoop_frame : ∀ (rem p : Nat) (d : Datapath),
    (p ≤ (skipLoop rem p d).1 ∧ (skipLoop rem p d).1 ≤ p + rem) ∧
      ∃ n, d.draws ≤ n ∧
        n + p ≤ d.draws + (skipLoop rem p d).1 + (if (skipLoop rem p d).1 < p + rem then 1 else 0) ∧
        (skipLoop rem p d).2 = { d with draws := n }
  | 0, p, d => ⟨by simp [skipLoop], d.draws, Nat.le_refl _, by simp [skipLoop], rfl⟩
  | rem + 1, p, d => by
    obtain ⟨n₁, hn₁, hu₁, h₁⟩ := readCell_frame p d
    rcases e : readCell p d with ⟨_ | _, d'⟩
    · rw [e] at h₁
      simp only [skipLoop, e]
      exact ⟨by omega, n₁, hn₁, by rw [if_pos (by omega)]; omega, h₁⟩
    · rw [e] at h₁
      simp only at h₁
      subst h₁
      obtain ⟨⟨ha, hb⟩, n₂, hn₂, hu₂, h₂⟩ := skipLoop_frame rem (p + 1) { d with draws := n₁ }
      simp only [skipLoop, e]
      rw [show p + (rem + 1) = p + 1 + rem by omega]
      simp only at hn₂ hu₂
      exact ⟨⟨by omega, hb⟩, n₂, Nat.le_trans hn₁ hn₂, by omega, h₂⟩

/-- The width count ends before `W`, only draws, and reads each cell once at most (R111, R112, R211). -/
theorem countLoop_frame : ∀ (rem p m : Nat) (d : Datapath),
    (m ≤ (countLoop rem p m d).1 ∧ (countLoop rem p m d).1 ≤ m + rem) ∧
      ∃ n, d.draws ≤ n ∧ n ≤ d.draws + rem ∧ (countLoop rem p m d).2 = { d with draws := n }
  | 0, p, m, d => ⟨by simp [countLoop], d.draws, Nat.le_refl _, Nat.le_refl _, rfl⟩
  | rem + 1, p, m, d => by
    obtain ⟨n₁, hn₁, hu₁, h₁⟩ := readCell_frame (p + m) d
    simp only [countLoop]
    split
    · next d' e =>
      rw [e] at h₁
      simp only at h₁
      subst h₁
      obtain ⟨⟨ha, hb⟩, n₂, hn₂, hu₂, h₂⟩ := countLoop_frame rem p (m + 1) { d with draws := n₁ }
      exact ⟨⟨by omega, by omega⟩, n₂, Nat.le_trans hn₁ hn₂, by simp only at hu₂; omega, h₂⟩
    · next d' e =>
      rw [e] at h₁
      exact ⟨by simp, n₁, hn₁, by omega, h₁⟩

/-! UNPACK's byte loop. -/

/-- All one turn of the byte loop can do (R103, R162): BusError, with the address issued; or the cells of the
byte that `MemRead` gave. -/
theorem unpackByte_cases (race : Bool) (j : Nat) (d : Datapath) :
    (pixelError d.errs (d.rowaddr + BitVec.ofNat 32 j) = true ∧
      unpackByte race j d = .error { d with
        pixReads := d.pixReads ++ [d.rowaddr + BitVec.ofNat 32 j]
        status := { d.status with buserr := true } }) ∨
    (pixelError d.errs (d.rowaddr + BitVec.ofNat 32 j) = false ∧ ∃ b n, d.draws ≤ n ∧
      ((race = false ∧ sparseGet d.mem (d.rowaddr + BitVec.ofNat 32 j).toNat = some b ∧ n = d.draws) ∨
        ((race = true ∨ sparseGet d.mem (d.rowaddr + BitVec.ofNat 32 j).toNat = none) ∧
          b = Config.freeByte d.draws ∧ n = d.draws + 1)) ∧
      unpackByte race j d = .ok (storeByte j b { d with
        pixReads := d.pixReads ++ [d.rowaddr + BitVec.ofNat 32 j], draws := n })) := by
  rcases memRead_cases race (d.rowaddr + BitVec.ofNat 32 j) d with
    ⟨he, h⟩ | ⟨he, hr, b, hb, h⟩ | ⟨he, hr, h⟩
  · exact .inl ⟨he, by simp [unpackByte, h, raise, abortStatus]⟩
  · exact .inr ⟨he, b, d.draws, Nat.le_refl _, .inl ⟨hr, hb, rfl⟩, by simp [unpackByte, h]⟩
  · exact .inr ⟨he, _, d.draws + 1, Nat.le_succ _, .inr ⟨hr, rfl, rfl⟩, by simp [unpackByte, h]⟩

/-- The byte loop changes `SL`, `BUSERR`, the port's trace and the draw counter at most (R103, R162). -/
theorem unpackLoop_frame : ∀ (rem j : Nat) (d : Datapath),
    ∃ sl reads n, d.draws ≤ n ∧
      (unpackLoop rem j d = .ok { d with sl := sl, pixReads := reads, draws := n } ∨
        unpackLoop rem j d = .error { d with
          sl := sl, pixReads := reads, draws := n, status := { d.status with buserr := true } })
  | 0, _, d => ⟨d.sl, d.pixReads, d.draws, Nat.le_refl _, .inl rfl⟩
  | rem + 1, j, d => by
    rcases unpackByte_cases false j d with ⟨-, h⟩ | ⟨-, b, n, hn, -, h⟩
    · exact ⟨d.sl, d.pixReads ++ [d.rowaddr + BitVec.ofNat 32 j], d.draws, Nat.le_refl _,
        .inr (by simp only [unpackLoop, h])⟩
    · obtain ⟨sl₁, e₁⟩ := storeByte_frame j b
        { d with pixReads := d.pixReads ++ [d.rowaddr + BitVec.ofNat 32 j], draws := n }
      obtain ⟨sl, reads, m, hm, h₂⟩ := unpackLoop_frame rem (j + 1) (storeByte j b
        { d with pixReads := d.pixReads ++ [d.rowaddr + BitVec.ofNat 32 j], draws := n })
      refine ⟨sl, reads, m, ?_, ?_⟩
      · rw [e₁] at hm; exact Nat.le_trans hn hm
      · simp only [unpackLoop, h]
        rcases h₂ with h₂ | h₂
        · exact .inl (by rw [h₂, e₁])
        · exact .inr (by rw [h₂, e₁])

/-! TRANSLATE's checks. -/

/-- The checks change `RESULT` and `DIGITS` at most; `DIGITS` holds digits exactly when `RCODE` is OK
(R40, R140). -/
theorem translateLoop_frame : ∀ (ks : List (Fin 11)) (found : List (Fin 10)) (d : Datapath),
    ∃ r ds, translateLoop ks found d = endTranslate r ds d
  | [], found, d => ⟨.ok, found, rfl⟩
  | k :: ks, found, d => by
    simp only [translateLoop]
    split
    · exact translateLoop_frame ks found d
    · exact translateLoop_frame ks _ d
    · exact ⟨_, _, rfl⟩

/-! Completion and acceptance. -/

/-- `finish()` with nothing cleared in the busy period: `DONE` (R150). -/
@[simp] theorem finishFlags_none (d : Datapath) :
    finishFlags {} d = { d with status := { d.status with done := true } } := rfl

/-- All `finish()` can change: `DONE`, the fields the host cleared in the busy period, the draw counter
(R150, R200 (b)). -/
theorem finishFlags_frame (raced : Status) (d : Datapath) :
    ∃ done oob cfgerr buserr n, d.draws ≤ n ∧
      (raced.done = false → done = true) ∧ (raced.oob = false → oob = d.status.oob) ∧
      (raced.cfgerr = false → cfgerr = d.status.cfgerr) ∧ (raced.buserr = false → buserr = d.status.buserr) ∧
      finishFlags raced d = { d with
        status := { d.status with done := done, oob := oob, cfgerr := cfgerr, buserr := buserr }
        draws := n } := by
  obtain ⟨rd, ro, rn, rc, ri, rg, rb, rw'⟩ := raced
  have step : ∀ (c v : Bool) (d : Datapath), ∃ x n, d.draws ≤ n ∧ (c = false → x = v) ∧
      drawIf c v d = (x, { d with draws := n }) := by
    intro c v d
    cases c
    · exact ⟨v, d.draws, Nat.le_refl _, fun _ => rfl, rfl⟩
    · exact ⟨Config.freeBit d.draws, d.draws + 1, Nat.le_succ _, by simp, rfl⟩
  obtain ⟨x1, n1, l1, f1, e1⟩ := step rd true d
  obtain ⟨x2, n2, l2, f2, e2⟩ := step ro d.status.oob { d with draws := n1 }
  obtain ⟨x3, n3, l3, f3, e3⟩ := step rg d.status.cfgerr { d with draws := n2 }
  obtain ⟨x4, n4, l4, f4, e4⟩ := step rb d.status.buserr { d with draws := n3 }
  refine ⟨x1, x2, x3, x4, n4, ?_, f1, f2, f3, f4, ?_⟩
  · simp only at l2 l3 l4; omega
  · simp only [finishFlags, e1, e2, e3, e4]

/-- A command that runs whole: its body, then `finish()` (R150, R151). -/
theorem command_ready {op : Op} {body : Body} {s : State} (hi : s.seq = .idle) (hu : undisturbed s = true) :
    command op body s =
      .next { s with dp := finishFlags {} (bodyEnd (body (acceptFlags s.dp))), seq := .idle } := by
  simp [command, hi, hu]

/-- A command in whose busy period an act of the host lands: it is accepted (R151). -/
theorem command_disturbed {op : Op} {body : Body} {s : State} (hi : s.seq = .idle)
    (hu : undisturbed s = false) : command op body s = .next (accept op s) := by
  simp [command, hi, hu]

/-- A busy block drops the `CMD` write (R200 (a)). -/
theorem command_busy {op op' : Op} {body : Body} {s : State} {pos : Pos} {hz : Hazard}
    (hs : s.seq = .busy op' pos hz) : command op body s = .next (busyWrite s) := by
  simp [command, hs]

/-- All `command` can do. -/
theorem command_cases (op : Op) (body : Body) (s : State) :
    ∃ t, command op body s = .next t ∧
      (t = busyWrite s ∨ t = accept op s ∨
        t = { s with dp := finishFlags {} (bodyEnd (body (acceptFlags s.dp))), seq := .idle }) := by
  unfold command
  split
  · exact ⟨_, rfl, .inl rfl⟩
  · split
    · exact ⟨_, rfl, .inr (.inr rfl)⟩
    · exact ⟨_, rfl, .inr (.inl rfl)⟩

end Sys2Proof.Machine
end

