-- ==== Sys2Proof/Laws/PerInstr.lean ====
section
/-! SUPPORT. Facts about every instruction as syntax, one lemma per constructor. -/

namespace Sys2Proof.Laws

/-- The mask and the match of an instruction's row in the opcode table. -/
def tableRow : Instr → Word × Word
  | .unpack => (0xFFFFFFFF, 0x00000001)
  | .measure => (0xFFFFFFFF, 0x00000002)
  | .classify => (0xFFFFFFFF, 0x00000003)
  | .assemble => (0xFFFFFFFF, 0x00000004)
  | .translate => (0xFFFFFFFF, 0x00000005)
  | .run => (0xFFFFFFFF, 0x00000006)
  | .softreset => (0xFFFFFFFF, 0x00000007)
  | .reservedOp0 => (0xFFFFFFFF, 0x00000000)
  | .reservedOp8F _ => (0xFFFFFFF8, 0x00000008)
  | .reservedRsv _ _ => (0x00000000, 0x00000000)

/-- The encoded word lies in its row of the opcode table, and its RSV bits are nonzero exactly for the row
"RSV != 0" (R85, R86, R89). -/
def EncodeInRow.Statement (i : Instr) : Prop :=
  i.wellFormed = true →
    encodeWord i &&& (tableRow i).1 = (tableRow i).2 ∧
      ((encodeWord i).extractLsb' 4 28 ≠ 0 ↔ (tableRow i).1 = 0)

theorem EncodeInRow.unpack : EncodeInRow.Statement .unpack := by unfold EncodeInRow.Statement; decide
theorem EncodeInRow.measure : EncodeInRow.Statement .measure := by unfold EncodeInRow.Statement; decide
theorem EncodeInRow.classify : EncodeInRow.Statement .classify := by unfold EncodeInRow.Statement; decide
theorem EncodeInRow.assemble : EncodeInRow.Statement .assemble := by unfold EncodeInRow.Statement; decide
theorem EncodeInRow.translate : EncodeInRow.Statement .translate := by unfold EncodeInRow.Statement; decide
theorem EncodeInRow.run : EncodeInRow.Statement .run := by unfold EncodeInRow.Statement; decide
theorem EncodeInRow.softreset : EncodeInRow.Statement .softreset := by unfold EncodeInRow.Statement; decide
theorem EncodeInRow.reservedOp0 : EncodeInRow.Statement .reservedOp0 := by unfold EncodeInRow.Statement; decide

theorem EncodeInRow.reservedOp8F (low : BitVec 3) : EncodeInRow.Statement (.reservedOp8F low) := by
  have h : ∀ low : BitVec 3, encodeWord (.reservedOp8F low) &&& 0xFFFFFFF8 = 0x00000008 ∧
      (encodeWord (.reservedOp8F low)).extractLsb' 4 28 = 0 := by decide
  intro _
  refine ⟨(h low).1, ?_⟩
  simp [(h low).2, tableRow]

theorem EncodeInRow.reservedRsv (op : BitVec 4) (rsv : BitVec 28) :
    EncodeInRow.Statement (.reservedRsv op rsv) := by
  intro hw
  have hrsv : (encodeWord (.reservedRsv op rsv)).extractLsb' 4 28 = rsv := by
    apply BitVec.eq_of_getLsbD_eq
    intro i hi
    have happ : (rsv ++ op).getLsbD (4 + i) = rsv.getLsbD i := by
      rw [BitVec.getLsbD_append]
      simp
    simp only [encodeWord, BitVec.getLsbD_extractLsb', hi, decide_true, Bool.true_and, happ]
  refine ⟨by simp [tableRow], ?_⟩
  simpa [hrsv, tableRow, Instr.wellFormed] using hw

end Sys2Proof.Laws
end

