-- ==== Sys2Proof/Laws/Turns.lean ====
section
/-! SUPPORT. Whose turn it is, one equation per case; the storage of reset and of every write is canonical. -/

namespace Sys2Proof.Machine

/-- Pixel memory stays canonical under the write of a byte (R60). -/
theorem storePixel_wf {addr : Word} {b : Byte} {s : State} (h : Memory.wf s.dp.mem = true) :
    Memory.wf (storePixel addr b s).dp.mem = true :=
  sparseWf_set b addr.isLt h

/-- The scanline buffer stays canonical under the write of a cell below SCAN_MAX (R43). -/
theorem writeCell_wf {i : Nat} {c : Colour} {d : Datapath} (hi : i < d.scanMax)
    (h : Scanline.wf d.scanMax d.sl = true) : Scanline.wf d.scanMax (writeCell i c d).sl = true :=
  sparseWf_set c hi h

/-- Pixel memory at reset is canonical. -/
theorem reset_mem_wf : Memory.wf State.reset.dp.mem = true := rfl

/-- The scanline buffer at reset is canonical. -/
theorem reset_sl_wf : Scanline.wf State.reset.dp.scanMax State.reset.dp.sl = true := rfl

/-- A byte of pixel memory reads back, and every other byte stays (R60, R61). -/
theorem storePixel_get (addr : Word) (b : Byte) (s : State) (a : Nat) :
    sparseGet (storePixel addr b s).dp.mem a = if a = addr.toNat then some b else sparseGet s.dp.mem a := by
  simp [sparseGet_set]

/-! `takeTurn`, case by case (R19, R210). -/

theorem takeTurn_waits {s : State} (hs : s.seq = .idle) (hh : s.host = []) : takeTurn s = .state s := by
  simp [takeTurn, hs, hh]

theorem takeTurn_idle {s : State} {t : Turn} {rest : List Turn} (hs : s.seq = .idle) (hh : s.host = t :: rest) :
    takeTurn s = hostAct t.act { s with host := rest } := by
  simp [takeTurn, hs, hh]

theorem takeTurn_busy_nil {s : State} {op : Op} {pos : Pos} {hz : Hazard} (hs : s.seq = .busy op pos hz)
    (hh : s.host = []) : takeTurn s = .state (blockStep s) := by
  simp [takeTurn, hs, hh]

theorem takeTurn_busy_whenIdle {s : State} {op : Op} {pos : Pos} {hz : Hazard} {a : HostAct} {rest : List Turn}
    (hs : s.seq = .busy op pos hz) (hh : s.host = ⟨.whenIdle, a⟩ :: rest) :
    takeTurn s = .state (blockStep s) := by
  simp [takeTurn, hs, hh]

theorem takeTurn_busy_now {s : State} {op : Op} {pos : Pos} {hz : Hazard} {a : HostAct} {rest : List Turn}
    (hs : s.seq = .busy op pos hz) (hh : s.host = ⟨.after 0, a⟩ :: rest) :
    takeTurn s = hostAct a { s with host := rest } := by
  simp [takeTurn, hs, hh]

theorem takeTurn_busy_later {s : State} {op : Op} {pos : Pos} {hz : Hazard} {a : HostAct} {rest : List Turn}
    {n : Nat} (hs : s.seq = .busy op pos hz) (hh : s.host = ⟨.after (n + 1), a⟩ :: rest) :
    takeTurn s = .state (blockStep { s with host := ⟨.after n, a⟩ :: rest }) := by
  simp [takeTurn, hs, hh]

/-- A turn that gives a next state is that step. -/
theorem step_of_state {s t : State} (h : takeTurn s = .state t) : step s = .next t := by
  simp [step, h]

/-- A `CMD` write that the idle block takes is the meaning of its word (R151). -/
theorem step_of_command {s t : State} {v : Word} (h : takeTurn s = .command v t) :
    step s = exec (decodeWord v) t := by
  simp [step, h]

/-- The block's step leaves the host's acts and the register port's answer alone. -/
theorem blockStep_frame (s : State) :
    (blockStep s).host = s.host ∧ (blockStep s).resp = s.resp := by
  unfold blockStep
  split
  · exact ⟨rfl, rfl⟩
  · split <;> exact ⟨rfl, rfl⟩

end Sys2Proof.Machine
end

