-- ==== Sys2Proof/Machine/HostProgram.lean ====
section
/-! DEFINITION. The host-program notation and the pseudo-operations as lists of host acts (R92, R93, R195). -/

namespace Sys2Proof.Machine

/-- `WR r, v` (R92), by a host that waits for the block to be idle. -/
def wr (r : Reg) (v : Word) : Turn := ⟨.whenIdle, .port (regOffset r) 4 (.write v)⟩

/-- `RD r` (R92), by a host that waits for the block to be idle. -/
def rd (r : Reg) : Turn := ⟨.whenIdle, .port (regOffset r) 4 .read⟩

/-- A command mnemonic: `WR CMD` with its word (R86, R92). -/
def cmd (i : Instr) : Turn := cmdTurn (encodeWord i)

/-- `WAIT` (R93): the reads of `STATUS` with `BUSY` = 1 change nothing (R70); this is the last one, the first
with `BUSY` = 0. -/
def waitTurns : List Turn := [rd .status]

/-- `CLRST` (R93). -/
def clrst : List Turn := [wr .status 0x000001E6]

/-- `DECODE` (R93). -/
def decodeTurns : List Turn := clrst ++ [cmd .run] ++ waitTurns

/-- `SETIMG w, h, base` (R93). -/
def setimg (w h base : Word) : List Turn := [wr .width w, wr .height h, wr .pixbase base]

/-- The required lines of the minimum host sequence from reset to a decoded result (R195). -/
def minimumSequence (w h base : Word) : List Turn :=
  setimg w h base ++ decodeTurns ++ [rd .status, rd .result, rd .digits]

/-- `MEM addr: b0 b1 ...` (R92): the bytes of pixel memory in the start state. -/
def withPixels (addr : Nat) : List Byte → State → State
  | [], s => s
  | b :: bs, s => withPixels (addr + 1) bs (storePixel (BitVec.ofNat 32 addr) b s)

end Sys2Proof.Machine
end

