-- ==== Sys2Proof/Tests/Slice0.lean ====
section
/-! SUPPORT. Tests: the WellFormed smoke, decoding of words written out from R86, vectors of
95_test_vectors.md (named in each comment), and a witness for the hypotheses of every statement. -/

namespace Sys2Proof.Tests

open Sys2Proof.Machine

/-! ## WellFormed -/

/-- A term of the row "RSV != 0" with RSV 0 is refused. -/
theorem test_wellFormed_refuses_zero_rsv : (Instr.reservedRsv 5 0).wellFormed = false := by decide

theorem test_wellFormed_accepts_nonzero_rsv : (Instr.reservedRsv 6 1).wellFormed = true := by decide

/-! ## Decoding: the words of R86, byte lane +0 first (R65) -/

theorem test_decode_unpack : decode [0x01, 0x00, 0x00, 0x00] = .ok .unpack := by decide
theorem test_decode_measure : decode [0x02, 0x00, 0x00, 0x00] = .ok .measure := by decide
theorem test_decode_classify : decode [0x03, 0x00, 0x00, 0x00] = .ok .classify := by decide
theorem test_decode_assemble : decode [0x04, 0x00, 0x00, 0x00] = .ok .assemble := by decide
theorem test_decode_translate : decode [0x05, 0x00, 0x00, 0x00] = .ok .translate := by decide
theorem test_decode_run : decode [0x06, 0x00, 0x00, 0x00] = .ok .run := by decide
theorem test_decode_softreset : decode [0x07, 0x00, 0x00, 0x00] = .ok .softreset := by decide
theorem test_decode_op0 : decode [0x00, 0x00, 0x00, 0x00] = .ok .reservedOp0 := by decide
theorem test_decode_op8 : decode [0x08, 0x00, 0x00, 0x00] = .ok (.reservedOp8F 0) := by decide
theorem test_decode_opF : decode [0x0F, 0x00, 0x00, 0x00] = .ok (.reservedOp8F 7) := by decide
/-- X4: 0x16 has OP 6 but RSV 1. -/
theorem test_decode_rsv : decode [0x16, 0x00, 0x00, 0x00] = .ok (.reservedRsv 6 1) := by decide
/-- X4: 0x8000_0001. -/
theorem test_decode_rsv_high : decode [0x01, 0x00, 0x00, 0x80] = .ok (.reservedRsv 1 0x8000000) := by decide
theorem test_decode_short : decode [0x01, 0x00] = .error .notOneWord := by decide
theorem test_decodeTableWord : decodeTableWord 32 6 = some .run := by decide
theorem test_encode_rsv : encode (.reservedRsv 6 1) = [0x16, 0x00, 0x00, 0x00] := by decide

/-! ## Small states -/

/-- Reset with SCAN_MAX 16 and a pixel memory that refuses no address. -/
def bench : Datapath := { Datapath.powerOn with capPred := 15, errs := [] }

/-- An idle machine with datapath `d`. -/
def idleAt (d : Datapath) : State := { dp := d, seq := .idle, resp := .none, host := [] }

/-- A busy machine with datapath `d` and one act of the host that lands now. -/
def busyAt (op : Op) (pos : Pos) (a : HostAct) (d : Datapath) : State :=
  { dp := d, seq := .busy op pos {}, resp := .none, host := [⟨.after 0, a⟩] }

/-- `bench` with a written scanline and `WIDTH` its length. -/
def withRow (px : List Colour) (d : Datapath) : Datapath :=
  { d with sl := px.mapIdx fun i c => (i, c), width := BitVec.ofNat 32 px.length }

/-- What a test looks at in a next state; `none` where there is none. -/
def after {α : Type} (o : Host.Outcome State Fault Refusal) (f : State → α) : Option α :=
  match o with
  | .next t => some (f t)
  | .fault _ => none
  | .refused _ => none

/-- `STATUS` as the host reads it. -/
def statusOf (s : State) : Word := statusWord (decide (s.seq ≠ .idle)) s.dp.status

/-- Vector U1's image: WIDTH 10, HEIGHT 4, PIXBASE 0x1000. -/
def u1 : Datapath :=
  { bench with width := 10, height := 4, pixbase := 0x1000, mem := [(0x1004, 0xA5), (0x1005, 0x7F)] }

/-! ## The commands -/

/-- U1: ROWSEL 2, ROWADDR 0x1004. -/
theorem test_unpack_row : after (exec .unpack (idleAt u1)) (fun t =>
    (t.dp.rowsel, t.dp.rowaddr, statusOf t)) = some (2, 0x1004, 0x2) := by decide

/-- U1: SL[0..9] = 1,0,1,0,0,1,0,1,0,1. -/
theorem test_unpack_cells : after (exec .unpack (idleAt u1)) (fun t =>
    (List.range 11).map (sparseGet t.dp.sl)) =
    some [some true, some false, some true, some false, some false, some true, some false, some true,
      some false, some true, none] := by decide

/-- M1: CURSOR 3, MODW 3. -/
theorem test_measure : after (exec .measure (idleAt (withRow
    [true, true, true, false, false, false, true, false] bench))) (fun t =>
    (t.dp.cursor, t.dp.modw, statusOf t)) = some (3, 3, 0x2) := by decide

/-- R211 and R113: on an unwritten row of one cell MEASURE draws once, and a dark cell is a bar. -/
theorem test_measure_readsOnce (h : Config.freeBit 0 = false) :
    after (exec .measure (idleAt { bench with width := 1 })) (fun t => (t.dp.draws, t.dp.modw, statusOf t)) =
      some (1, 1, 0x2) := by
  simp [exec, execMeasure, command, idleAt, bench, undisturbed, measureBody, widthOk, acceptFlags,
    Datapath.powerOn, Datapath.scanMax, scanWidth, skipLoop, readCell, sparseGet, drawBit, h, firstDark,
    countLoop, endMeasure, noBar, bodyEnd, after, statusOf, statusWord, flagBit, finishFlags, drawIf]

/-- M3: all light, CURSOR 4, MODW 0, NOBAR. -/
theorem test_measure_allLight : after (exec .measure (idleAt (withRow [true, true, true, true] bench)))
    (fun t => (t.dp.cursor, t.dp.modw, statusOf t)) = some (4, 0, 0xA) := by decide

/-- C5: the vote, light 3 > 2. -/
theorem test_classify_vote : after (exec .classify (idleAt { withRow
    [true, true, false, true, true, true, true, true] bench with cursor := 2, modw := 5, offset := 2 }))
    statusOf = some 0x12 := by decide

/-- C11: the window starts before index 0; with both draws 0 the colour is dark, and OOB is set. -/
theorem test_classify_outOfRange (h0 : Config.freeBit 0 = false) (h1 : Config.freeBit 1 = false) :
    after (exec .classify (idleAt { withRow [false, true, true, true, true, true] bench with
      cursor := 0, modw := 5, offset := 2 })) statusOf = some 0x6 := by
  simp [exec, execClassify, command, idleAt, withRow, bench, undisturbed, classifyBody, widthOk, acceptFlags,
    Datapath.powerOn, Datapath.scanMax, classifySpan, slRead, farIndex, readCell, sparseGet, voteLoop, voteTurn,
    windowIndex, drawBit, h0, h1, endClassify, bodyEnd, after, statusOf, statusWord, flagBit, finishFlags,
    drawIf]

/-- A2: every module matches, codes all ones, CURSOR unchanged. -/
theorem test_assemble_ones : after (exec .assemble (idleAt { withRow
    [true, true, true, true, true, true] bench with cursor := 3, modw := 0, offset := 2 }))
    (fun t => (t.dp.codes.toList, t.dp.cursor, statusOf t)) =
    some ([7, 127, 127, 127, 127, 31, 127, 127, 127, 127, 7], 3, 0x2) := by decide

/-- Codes of "12345670" (T1). -/
def t1 : Vector Code 11 := #v[2, 102, 108, 66, 92, 21, 49, 47, 59, 13, 2]

/-- T1. -/
theorem test_translate_ok : after (exec .translate (idleAt { bench with codes := t1 }))
    (fun t => (resultWord t.dp.result, t.dp.digits, statusOf t)) = some (1, 0x12345670, 0x2) := by decide

/-- T10: the first fault in list order wins, position 2. -/
theorem test_translate_firstFault : after (exec .translate (idleAt { bench with
    codes := #v[2, 102, 108, 0, 92, 0, 49, 47, 59, 13, 0] }))
    (fun t => (resultWord t.dp.result, t.dp.digits)) = some (0x203, 0xFFFFFFFF) := by decide

/-- R4: HEIGHT 0, CfgError and nothing else. -/
theorem test_run_cfgError : after (exec .run (idleAt { u1 with height := 0 }))
    (fun t => (statusOf t, t.dp.rowaddr, t.dp.digits)) = some (0x42, 0, 0xFFFFFFFF) := by decide

/-- U15's shape on RUN: the second byte answers with an error. -/
theorem test_run_busError : after (exec .run (idleAt { u1 with errs := [(0x1005, 1)] }))
    (fun t => (statusOf t, t.dp.rowaddr, sparseGet t.dp.sl 7, sparseGet t.dp.sl 8)) =
    some (0x82, 0x1004, some true, none) := by decide

/-- X2: the scanline is kept, CODE3 and STATUS are reset. -/
theorem test_softreset : after (exec .softreset (idleAt { bench with
    sl := [(0, true)], codes := t1, status := { done := true } }))
    (fun t => (sparseGet t.dp.sl 0, t.dp.codes[3], statusOf t)) = some (some true, 0, 0) := by decide

/-- X3. -/
theorem test_op0_illegal : after (exec .reservedOp0 (idleAt bench)) statusOf = some 0x22 := by decide
/-- X4. -/
theorem test_opF_illegal : after (exec (.reservedOp8F 7) (idleAt bench)) statusOf = some 0x22 := by decide
/-- X4. -/
theorem test_rsv_illegal : after (exec (.reservedRsv 6 1) (idleAt bench)) statusOf = some 0x22 := by decide

/-! ## The machine -/

/-- The host's `CMD` write is decoded and run by the next step: MEASURE on M2's row. -/
theorem test_step_runs_command : after (step ((idleAt (withRow [false, false, true, true] bench)).withFetchWord
    32 2)) (fun t => (t.dp.cursor, t.dp.modw, statusOf t)) = some (0, 2, 0x2) := by decide

/-- The first step after reset: RUN is accepted and ends with CfgError (P5). -/
theorem test_first_command_after_reset : after (step (State.reset.withFetchWord 32 6)) statusOf =
    some 0x42 := by decide

/-- X14: a SOFTRESET written in a busy period is lost and BUSYWR is set. -/
theorem test_busy_softreset_dropped : after (step (busyAt .run .start (.port 0x008 4 (.write 7)) u1))
    (fun t => (statusOf t, t.dp.width)) = some (0x101, 10) := by decide

/-- X12: a 32-bit read at offset 0x006. -/
theorem test_misaligned_read : after (step { idleAt bench with host := [⟨.whenIdle, .port 0x006 4 .read⟩] })
    (fun t => t.resp) = some .error := by decide

/-- X10: OFFSET keeps eight bits. -/
theorem test_offset_width : after (step { idleAt bench with host := [wr .offset 0x305] })
    (fun t => t.dp.offset) = some 5 := by decide

/-- X5: only OOB is cleared. -/
theorem test_w1c : statusWord false (w1cWrite 0x4
    { done := true, oob := true, illcmd := true, cfgerr := true, buserr := true, busywr := true }) =
    0x1E2 := by decide

/-- S9: strides of widths 1, 32, 33, 83, 355. -/
theorem test_stride : ([1, 32, 33, 83, 355].map fun w => stride { bench with width := BitVec.ofNat 32 w }) =
    [4, 4, 8, 12, 48] := by decide

/-- U10: HEIGHT = -2^31, the address wraps to PIXBASE. -/
theorem test_height_min : (logicalRow { u1 with height := 0x80000000 },
    rowAddress { u1 with height := 0x80000000 }) = (0x40000000, 0x1000) := by decide

/-! ## Witnesses: a concrete state that meets the hypotheses of each statement -/

theorem witness_DecodeOfEncode : (Instr.reservedRsv 0 1).wellFormed = true := by decide

/-- Every clause of R89, at the ends of its range. -/
theorem witness_DecodeFollowsOpcodeMap :
    (0x00000010 : Word).extractLsb' 4 28 ≠ 0 ∧ (0xFFFFFFFF : Word).extractLsb' 4 28 ≠ 0 ∧
    (∀ op : BitVec 4, (0#28 ++ op).extractLsb' 4 28 = 0 ∧ (0#28 ++ op).extractLsb' 0 4 = op) := by decide

/-- A `CMD` write of RUN's word. -/
def cmdRun : State := { idleAt u1 with host := [cmdTurn 6] }

theorem witness_StepRunsDecodedCommand : cmdRun.seq = .idle ∧
    cmdRun.host = [⟨.whenIdle, .port (regOffset .cmd) 4 (.write 6)⟩] ∧ decode (bytesOfWord 6) = .ok .run :=
  ⟨rfl, rfl, by decide⟩

theorem witness_ResetRegisterValues :
    (State.reset = State.reset ∨ ∃ s', State.reset = resetInput s') ∧
    (resetInput cmdRun = State.reset ∨ ∃ s', resetInput cmdRun = resetInput s') ∧ cmdRun.seq = .idle :=
  ⟨.inl rfl, .inr ⟨cmdRun, rfl⟩, rfl⟩

/-- Idle, and in the middle of RUN's UNPACK phase. -/
theorem witness_ResetInputAbandonsCommand :
    (busyAt .run (.byte 1) .resetInput u1).host = [⟨.after 0, .resetInput⟩] ∧
    (busyAt .run (.byte 1) .resetInput u1).seq ≠ .idle ∧
    { idleAt u1 with host := [⟨.whenIdle, .resetInput⟩] }.seq = .idle := ⟨rfl, by decide, rfl⟩

theorem witness_SelectedRowGeometry : widthOk u1 = true ∧ u1.height ≠ 0 ∧ u1.height.toInt.natAbs = 2 * 2 ∧
    { u1 with height := -1 }.height.toInt.natAbs = 2 * 0 + 1 := by decide

theorem witness_UnpackFillsScanline : Ready (idleAt u1) ∧ imageOk u1 = true ∧
    rowReadable u1 (pixelBytes u1) ∧ rowWritten u1 (pixelBytes u1) :=
  ⟨⟨rfl, rfl⟩, by decide, by unfold rowReadable; decide, by unfold rowWritten; decide⟩

/-- The second of U1's two pixel bytes answers with an error. -/
def u1Error : Datapath := { u1 with errs := [(0x1005, 1)] }

theorem witness_BusErrorKeepsPartialRow : Ready (idleAt u1Error) ∧ imageOk u1Error = true ∧
    1 < pixelBytes u1Error ∧ rowReadable u1Error 1 ∧ pixelError u1Error.errs (rowByte u1Error 1) = true ∧
    rowWritten u1Error 1 :=
  ⟨⟨rfl, rfl⟩, by decide, by decide, by unfold rowReadable; decide, by decide, by unfold rowWritten; decide⟩

theorem witness_OnlyRowBytesMatter : Ready (idleAt u1) ∧
    (∀ j < pixelBytes u1, sparseGet ((0x1000, 0xFF) :: u1.mem) (rowByte u1 j).toNat =
      sparseGet u1.mem (rowByte u1 j).toNat) ∧
    ∃ t, exec .unpack (idleAt u1) = .next t := ⟨⟨rfl, rfl⟩, by decide, ⟨_, rfl⟩⟩

/-- A row of eight pixels whose cell 1 is unwritten, and a written cell beyond it. -/
def gapRow : Datapath := { bench with width := 8, sl := [(0, true), (7, false), (8, true)] }

/-- Both ends of `[0, W)` written, a gap inside, and both sides outside; cell 8 exists. -/
theorem witness_ScanlineReadRule : sparseGet gapRow.sl (0 : Int).toNat = some true ∧
    sparseGet gapRow.sl (7 : Int).toNat = some false ∧ (7 : Int) < gapRow.width.toInt ∧
    sparseGet gapRow.sl (1 : Int).toNat = none ∧ (-1 : Int) < 0 ∧ gapRow.width.toInt ≤ 8 ∧
    sparseGet gapRow.sl (8 : Int).toNat = some true := by decide

/-- M1's row. -/
def m1Row : List Colour := [true, true, true, false, false, false, true, false]

theorem witness_MeasureFindsFirstBar : Ready (idleAt (withRow m1Row bench)) ∧
    widthOk (withRow m1Row bench) = true ∧ HoldsPixels (withRow m1Row bench) m1Row :=
  ⟨⟨rfl, rfl⟩, by decide, by unfold HoldsPixels; decide⟩

theorem witness_MeasureAlwaysCompletes : Ready (idleAt gapRow) ∧ widthOk gapRow = true := ⟨⟨rfl, rfl⟩, by decide⟩

theorem witness_ClassifyAlwaysCompletes : Ready (idleAt gapRow) ∧ widthOk gapRow = true := ⟨⟨rfl, rfl⟩, by decide⟩

/-- A written row of ten light pixels, `OFFSET` 2 and `MODW` 3, with the cursor at `c`. -/
def lightRow (c : Word) : Datapath :=
  { withRow (List.replicate 10 true) bench with cursor := c, modw := 3, offset := 2 }

/-- The far sample on the last cell and on the one after it, the start pixel on the last cell and after it, and the
window's first pixel on cell 0 and before it. -/
theorem witness_ClassifyAlwaysCompletes_rows :
    (SamplesInRow (lightRow 9) 9 ∧ ¬ SamplesInRow (lightRow 10) 10) ∧
    (SamplesInRow { lightRow 8 with modw := 4 } 8 ∧ ¬ SamplesInRow { lightRow 9 with modw := 4 } 9) ∧
    (SamplesInRow (lightRow 2) 2 ∧ WindowInRow (lightRow 2) 2 ∧ ¬ WindowInRow (lightRow 1) 1) := by
  unfold SamplesInRow WindowInRow InRow
  decide

/-- Cells 0 and 2 of this row differ, and a window of five from index -2 leaves it; from index 0 it does not. -/
def edgeRow (c : Word) : Datapath :=
  { withRow [false, true, true, true, true, true] bench with cursor := c, modw := 5, offset := 2 }

/-- Vectors C11 and C12's row: samples inside that differ, with the window outside and inside, and samples that
agree with the window outside. -/
theorem witness_ClassifyAlwaysCompletes_window :
    (SamplesInRow (edgeRow 0) 0 ∧ SamplesHold (edgeRow 0) 0 false (!false) ∧ ¬ WindowInRow (edgeRow 0) 0) ∧
    (SamplesInRow (edgeRow 1) 1 ∧ SamplesHold (edgeRow 1) 1 true true ∧ ¬ WindowInRow (edgeRow 1) 1) ∧
    (SamplesInRow (edgeRow 2) 2 ∧ WindowInRow (edgeRow 2) 2) := by
  unfold SamplesInRow SamplesHold WindowInRow InRow
  decide

/-- Samples that agree leave the window unread, so `OOB` stays 0 although the window begins below index 0. -/
theorem test_classify_windowUnread : after (exec .classify (idleAt (edgeRow 1))) statusOf = some 0x12 := by decide

/-- S6's row and span: an exact split of the window. -/
def s6Row : List Colour := [true, true, true, false, false, true, true, true]

def s6 : Datapath := { withRow s6Row bench with cursor := 2, modw := 4, offset := 1 }

theorem witness_ClassifyIsMajority : Ready (idleAt s6) ∧ widthOk s6 = true ∧ HoldsPixels s6 s6Row ∧
    s6.offset.toNat < s6.cursor.toNat + s6.modw.toNat ∧ s6.cursor.toNat < s6Row.length ∧
    s6.cursor.toNat + s6.modw.toNat - s6.offset.toNat ≤ s6Row.length ∧
    s6Row.getD 2 dark ≠ s6Row.getD 4 dark ∧ s6.offset.toNat ≤ s6.cursor.toNat :=
  ⟨⟨rfl, rfl⟩, by decide, by unfold HoldsPixels; decide, by decide⟩

/-- S6's row with a span of no pixels: the two samples are cells 3 and 1 and differ (R116 (d)). -/
def s6Empty : Datapath := { s6 with cursor := 3, modw := 0 }

theorem witness_ClassifyIsMajority_emptySpan : Ready (idleAt s6Empty) ∧ widthOk s6Empty = true ∧
    HoldsPixels s6Empty s6Row ∧ s6Empty.offset.toNat ≤ s6Empty.cursor.toNat ∧
    s6Empty.cursor.toNat + s6Empty.modw.toNat - s6Empty.offset.toNat ≤ s6Row.length ∧
    s6Empty.offset.toNat < s6Empty.cursor.toNat + s6Empty.modw.toNat ∧
    s6Empty.cursor.toNat < s6Row.length ∧ s6Row.getD 3 dark ≠ s6Row.getD 1 dark :=
  ⟨⟨rfl, rfl⟩, by decide, by unfold HoldsPixels; decide, by decide⟩

/-- R116 (d): no window pixel, so dark. -/
theorem test_classify_emptySpan : after (exec .classify (idleAt s6Empty)) statusOf = some 0x2 := by decide

/-- A light module at 2 to 6 after two light pixels, with one wrong pixel, on a boundary sample. -/
def noisyRow : List Colour := [true, true, false, true, true, true, true, true]

def noisy : Datapath := { withRow noisyRow bench with cursor := 2, modw := 5, offset := 2 }

theorem witness_ClassifyToleratesNoise : Ready (idleAt noisy) ∧ widthOk noisy = true ∧
    HoldsPixels noisy noisyRow ∧ noisy.offset.toNat + 1 ≤ noisy.modw.toNat ∧
    noisy.offset.toNat ≤ noisy.cursor.toNat ∧ noisy.cursor.toNat + noisy.modw.toNat ≤ noisyRow.length ∧
    noisyRow.getD 0 dark = light ∧ noisyRow.getD 1 dark = light ∧
    ((noisyRow.drop 2).take 3).count (!light) ≤ 5 - 5 / 2 - 1 ∧ noisyRow.getD (2 + 5 - 2 - 1) dark = light :=
  ⟨⟨rfl, rfl⟩, by decide, by unfold HoldsPixels; decide, by decide⟩

theorem witness_CellsBeyondWidthNeverMatter : Ready (idleAt gapRow) ∧
    (∀ i < scanWidth gapRow, sparseGet [(0, true), (7, false), (9, false)] i = sparseGet gapRow.sl i) ∧
    ∃ t, exec .assemble (idleAt gapRow) = .next t := ⟨⟨rfl, rfl⟩, by decide, ⟨_, rfl⟩⟩

theorem witness_AssembleAlwaysCompletes : Ready (idleAt gapRow) ∧ widthOk gapRow = true := ⟨⟨rfl, rfl⟩, by decide⟩

/-- With one pixel a module the 67th lies out of the row; with none every module is the span at 2; one that starts
at the top of the 32 bits wraps to cell 0. -/
theorem witness_AssembleAlwaysCompletes_rows :
    (¬ SamplesInRow { lightRow 0 with modw := 1 } (moduleStart { lightRow 0 with modw := 1 } 66)) ∧
    (∀ q < 67, SamplesInRow { lightRow 3 with modw := 0 } (moduleStart { lightRow 3 with modw := 0 } q) ∧
      WindowInRow { lightRow 3 with modw := 0 } (moduleStart { lightRow 3 with modw := 0 } q)) ∧
    moduleStart (lightRow 0xFFFFFFFD) 1 = 0 := by
  unfold SamplesInRow WindowInRow InRow
  decide

/-- Module 0 of `edgeRow 0` has samples that differ and a window outside; with spans of no pixels at 4 every module
has samples that agree. -/
theorem witness_AssembleAlwaysCompletes_window :
    (SamplesHold (edgeRow 0) (moduleStart (edgeRow 0) 0) false (!false) ∧
      ¬ WindowInRow (edgeRow 0) (moduleStart (edgeRow 0) 0)) ∧
    ∀ q < 67, SamplesInRow { edgeRow 4 with modw := 0 } (moduleStart { edgeRow 4 with modw := 0 } q) ∧
      SamplesHold { edgeRow 4 with modw := 0 } (moduleStart { edgeRow 4 with modw := 0 } q) true true := by
  unfold SamplesInRow SamplesHold WindowInRow InRow
  decide

/-- A noisy module: its samples differ and the window decides. The next module of `wrapped` starts at cell 0. -/
def wrapped : Datapath := { lightRow 0xFFFFFFFD with offset := 0 }

theorem witness_AssembleReadsEachModule : Ready (idleAt s6) ∧ widthOk s6 = true ∧ HoldsPixels s6 s6Row ∧
    ClassifyInRow s6 s6Row (moduleStart s6 (segStart 0 + 0)) ∧ s6Row.getD 2 dark ≠ s6Row.getD 4 dark ∧
    HoldsPixels wrapped (List.replicate 10 true) ∧ widthOk wrapped = true ∧
    ¬ ClassifyInRow wrapped (List.replicate 10 true) (moduleStart wrapped (segStart 0 + 0)) ∧
    ClassifyInRow wrapped (List.replicate 10 true) (moduleStart wrapped (segStart 0 + 1)) ∧
    ∀ q < 67, ClassifyInRow { wrapped with cursor := 3, modw := 0 } (List.replicate 10 true)
      (moduleStart { wrapped with cursor := 3, modw := 0 } q) := by
  refine ⟨⟨rfl, rfl⟩, ?_⟩
  unfold HoldsPixels ClassifyInRow SamplesInRow WindowInRow InRow
  decide

/-- The 67 modules of "12345670" (program P1). -/
def p1Modules : List Nat :=
  [0,1,0, 1,1,0,0,1,1,0, 1,1,0,1,1,0,0, 1,0,0,0,0,1,0, 1,0,1,1,1,0,0] ++ [1,0,1,0,1] ++
  [0,1,1,0,0,0,1, 0,1,0,1,1,1,1, 0,1,1,1,0,1,1, 0,0,0,1,1,0,1, 0,1,0]

def p1Module (q : Nat) : Colour := p1Modules.getD q 0 == 1

/-- P1's scanline after seven quiet pixels, SCAN_MAX 128, one pixel a module. -/
def p1Scan : Datapath :=
  { withRow (List.replicate 7 true ++ p1Modules.map (· == 1)) { bench with capPred := 127 } with
    cursor := 7, modw := 1, offset := 0 }

set_option maxRecDepth 20000 in
theorem witness_AssembleReadsCleanSymbol : Ready (idleAt p1Scan) ∧ widthOk p1Scan = true ∧
    p1Scan.offset.toNat + 1 ≤ p1Scan.modw.toNat ∧ HoldsSymbol p1Scan p1Module :=
  ⟨⟨rfl, rfl⟩, by decide, by decide, by unfold HoldsSymbol; decide⟩

theorem witness_TranslateFollowsCheckOrder : Ready (idleAt bench) := ⟨rfl, rfl⟩

theorem witness_LookupFindsSmallestDigit : digitTables.1.length = 10 := by decide

/-- The digits of program P1. -/
def p1Digits : Vector (Fin 10) 8 := #v[1, 2, 3, 4, 5, 6, 7, 0]

theorem witness_TranslateRecoversDigits : Ready (idleAt { bench with codes := t1 }) ∧
    t1 = symbolCodes p1Digits := ⟨⟨rfl, rfl⟩, by decide⟩

/-- T14: "12345670" read right to left. -/
def t14 : Vector Code 11 := #v[2, 88, 110, 122, 70, 21, 29, 33, 27, 51, 2]

theorem witness_ReversedScanFails : Ready (idleAt { bench with codes := t14 }) ∧ t14[0] = startGuard ∧
    t14[1] = (digitTables.2.getD (0 : Fin 10).val 0).reverse := ⟨⟨rfl, rfl⟩, by decide⟩

theorem witness_RunIsThePipeline : Ready (idleAt u1) ∧ imageOk u1 = true ∧ rowReadable u1 (pixelBytes u1) :=
  ⟨⟨rfl, rfl⟩, by decide, by unfold rowReadable; decide⟩

/-- Both ways UNPACK aborts. -/
theorem witness_RunAbortsWithUnpack : Ready (idleAt bench) ∧ imageOk bench = false ∧ Ready (idleAt u1Error) ∧
    ¬ rowReadable u1Error (pixelBytes u1Error) :=
  ⟨⟨rfl, rfl⟩, by decide, ⟨rfl, rfl⟩, by unfold rowReadable; decide⟩

/-- Program P1's bytes. -/
def p1Bytes (j : Nat) : Byte :=
  ([0xFE, 0xB3, 0x6C, 0x85, 0x72, 0xAC, 0x57, 0xBB, 0x1A, 0xBF, 0xE0] : List Byte).getD j 0

/-- Program P1's image and configuration. -/
def p1Image : Datapath :=
  { bench with
    capPred := 127, width := 83, height := 1, pixbase := 0x80000000, offset := 0
    mem := (List.range 11).map fun j => (0x80000000 + j, p1Bytes j) }

theorem p1_image : Ready (idleAt p1Image) ∧ imageOk p1Image = true ∧
    RowHolds p1Image (pixelBytes p1Image) p1Bytes :=
  ⟨⟨rfl, rfl⟩, by decide, by unfold RowHolds; decide⟩

theorem p1_symbol : codesOf p1Module = symbolCodes p1Digits ∧
    p1Image.offset.toNat + 1 ≤ 1 ∧ 7 + 67 * 1 ≤ scanWidth p1Image := by decide

set_option maxRecDepth 20000 in
theorem p1_pixels : (∀ x < 7, rowPixel p1Bytes x = light) ∧
    (∀ m < 67, ∀ t < 1, rowPixel p1Bytes (7 + m * 1 + t) = p1Module m) := by decide

theorem witness_RunDecodesCleanImage : Ready (idleAt p1Image) ∧ imageOk p1Image = true ∧
    RowHolds p1Image (pixelBytes p1Image) p1Bytes ∧ codesOf p1Module = symbolCodes p1Digits ∧
    p1Image.offset.toNat + 1 ≤ 1 ∧ 7 + 67 * 1 ≤ scanWidth p1Image ∧ (∀ x < 7, rowPixel p1Bytes x = light) ∧
    (∀ m < 67, ∀ t < 1, rowPixel p1Bytes (7 + m * 1 + t) = p1Module m) :=
  ⟨p1_image.1, p1_image.2.1, p1_image.2.2, p1_symbol.1, p1_symbol.2.1, p1_symbol.2.2, p1_pixels.1, p1_pixels.2⟩

/-- The same configuration and memory, with other registers left by an earlier decode. -/
def u1Later : Datapath := { u1 with cursor := 74, modw := 1, codes := t1, result := .ok, sl := [(3, true)] }

theorem witness_RunForgetsEarlierDecodes : Ready (idleAt u1) ∧ Ready (idleAt u1Later) ∧ imageOk u1 = true ∧
    rowReadable u1 (pixelBytes u1) ∧ (u1Later.width, u1Later.height, u1Later.pixbase, u1Later.offset,
      u1Later.capPred, u1Later.mem, u1Later.errs, u1Later.draws) =
      (u1.width, u1.height, u1.pixbase, u1.offset, u1.capPred, u1.mem, u1.errs, u1.draws) ∧
    (∃ t, exec .run (idleAt u1) = .next t) ∧ ∃ t, exec .run (idleAt u1Later) = .next t :=
  ⟨⟨rfl, rfl⟩, ⟨rfl, rfl⟩, by decide, by unfold rowReadable; decide, rfl, ⟨_, rfl⟩, ⟨_, rfl⟩⟩

/-- `WIDTH` just below 1 and just above SCAN_MAX, `HEIGHT` 0, and a configuration that passes. -/
theorem witness_ConfigErrorChangesNothingElse : Ready (idleAt bench) ∧ bench.width.toInt < 1 ∧
    (bench.scanMax : Int) < { bench with width := 17 }.width.toInt ∧
    { u1 with height := 0 }.height.toInt = 0 ∧ 1 ≤ u1.width.toInt ∧
    { u1 with width := 16 }.width.toInt ≤ (u1.scanMax : Int) ∧ u1.height.toInt ≠ 0 ∧
    ∃ t, exec .unpack (idleAt u1) = .next t :=
  ⟨⟨rfl, rfl⟩, by decide, by decide, by decide, by decide, by decide, by decide, ⟨_, rfl⟩⟩

theorem witness_SoftresetRestoresRegisters : (idleAt u1).seq = .idle ∧
    (busyAt .run .start .resetInput u1).seq ≠ .idle := ⟨rfl, by decide⟩

theorem witness_IllegalWordOnlySetsFlags : (decodeWord 8).illegal = true ∧ (decodeWord 0).illegal = true ∧
    { idleAt u1 with host := [cmdTurn 8] }.host = [⟨.whenIdle, .port (regOffset .cmd) 4 (.write 8)⟩] ∧
    (busyAt .run .start (.port (regOffset .cmd) 4 (.write 8)) u1).host =
      [⟨.after 0, .port (regOffset .cmd) 4 (.write 8)⟩] ∧
    (busyAt .run .start (.port (regOffset .cmd) 4 (.write 8)) u1).seq ≠ .idle :=
  ⟨by decide, by decide, rfl, rfl, by decide⟩

theorem witness_ReservedRowsAreIllegal : (idleAt u1).seq = .idle := rfl

/-- An idle block whose host writes OFFSET three block steps into the next busy period. -/
def disturbed : State := { idleAt u1 with host := [⟨.after 3, .port 0x010 4 (.write 7)⟩] }

theorem witness_AcceptanceOpensBusyPeriod : disturbed.seq = .idle ∧ undisturbed disturbed = false := ⟨rfl, rfl⟩

/-- Completion, acceptance with `DONE` 1 before it, a W1C of `DONE`, and `IE` written 1 with `DONE` 1. -/
theorem witness_CompletionRaisesInterrupt : Ready (idleAt u1) ∧
    (∃ t, exec .translate (idleAt u1) = .next t) ∧ (∃ t, exec .softreset (idleAt u1) = .next t) ∧
    (∃ t, exec Op.run.instr { disturbed with dp := { u1 with ie := true, status := { done := true } } } = .next t) ∧
    (0x1E6 : Word).getLsbD 1 = true ∧
    (∃ t, step { idleAt { u1 with ie := true, status := { done := true } } with host := clrst } = .next t) ∧
    ∃ t, step { idleAt { u1 with status := { done := true } } with host := [wr .ctrl 1] } = .next t :=
  ⟨⟨rfl, rfl⟩, ⟨_, rfl⟩, ⟨_, rfl⟩, ⟨_, rfl⟩, by decide, ⟨_, rfl⟩, ⟨_, rfl⟩⟩

/-- R208: writing `IE` 1 while `DONE` is 1 asserts `IRQ` at once. -/
theorem test_irq_at_once : after (step { idleAt { u1 with status := { done := true } } with host := [wr .ctrl 1] })
    irq = some true := by decide

theorem witness_CommandsWriteOnlyTheirRow : (idleAt u1).seq = .idle ∧
    (∃ t, exec Op.measure.instr (idleAt u1) = .next t) ∧ ∃ t, exec Op.run.instr disturbed = .next t :=
  ⟨rfl, ⟨_, rfl⟩, ⟨_, rfl⟩⟩

/-- MEASURE in its margin skip, on U1's registers. -/
def midMeasure : State := { idleAt u1 with seq := .busy .measure (.skip 10) {} }

theorem witness_BlockStepsWriteOnlyTheirRow : Inv midMeasure ∧ midMeasure.seq = .busy .measure (.skip 10) {} :=
  ⟨⟨by decide, by decide, by decide, by decide⟩, rfl⟩

theorem witness_CommandsNeverClearStickyFlags : Instr.run ≠ .softreset ∧
    ∃ t, exec .run (idleAt { u1 with status := { oob := true, busywr := true } }) = .next t :=
  ⟨by decide, ⟨_, rfl⟩⟩

/-- The last cell of the largest scanline, the first and last offsets beyond the smallest, and both ends of the
two reserved ranges below the scanline window. -/
theorem witness_RegisterMapIsFaithful : (0xFFFFF : Nat) < (0xFFFFF : BitVec 20).toNat + 1 ∧
    (0 : BitVec 20).toNat + 1 ≤ 1 ∧ (0x1BFFFF : Nat) < 0x1C0000 ∧
    (0x3C ≤ (0x3C : BitVec 23).toNat ∧ (0x3F : BitVec 23).toNat < 0x40) ∧
    (0x6C ≤ (0x6C : BitVec 23).toNat ∧ (0xFFFFC : BitVec 23).toNat < 0x100000) := by decide

/-- A written cell, and each constructor of RESULT with its word. -/
theorem witness_RegisterLayouts : sparseGet gapRow.sl 0 = some true ∧
    [Result.none, .ok, .startGuardError, .invalidDigitError 7, .dividerError, .stopGuardError].map resultWord =
      [0, 1, 2, 0x703, 4, 5] := by decide

/-- A write and a read of CODE10, the last listed register below the scanline. -/
theorem witness_RegisterWriteReadsBack : (0x068 : BitVec 23).toNat % 4 = 0 ∧
    regAt u1.scanMax 0x068 = .code 10 ∧ Reg.code 10 ≠ .cmd ∧ Reg.code 10 ≠ .status ∧
    { idleAt u1 with host := [⟨.whenIdle, .port 0x068 4 (.write 0x82)⟩, ⟨.after 2, .port 0x068 4 .read⟩] }.seq =
      .idle := by decide

/-- A read of an unwritten and of a written cell. -/
theorem witness_ReadsHaveNoSideEffect : (0x100000 : BitVec 23).toNat % 4 = 0 ∧
    regAt gapRow.scanMax 0x100000 = .sl 0 ∧ sparseGet gapRow.sl 0 ≠ none ∧
    regAt gapRow.scanMax 0x100004 = .sl 1 ∧ sparseGet gapRow.sl 1 = none :=
  by
  refine ⟨by decide, ?_, by decide, ?_, by decide⟩ <;> simp [regAt, slWindow, gapRow, bench, Datapath.scanMax]

/-- Wrong by size alone, and by alignment alone. -/
theorem witness_WrongShapeGetsErrorResponse : ((2 : Nat) ≠ 4 ∧ (0x004 : BitVec 23).toNat % 4 = 0) ∧
    (0x006 : BitVec 23).toNat % 4 ≠ 0 := by decide

theorem witness_StatusWriteClearsOnes :
    (busyAt .run .start (.port (regOffset .status) 4 (.write 0x1E6)) u1).host =
      [⟨.after 0, .port (regOffset .status) 4 (.write 0x1E6)⟩] ∧
    { idleAt u1 with host := clrst }.host = [⟨.whenIdle, .port (regOffset .status) 4 (.write 0x1E6)⟩] :=
  ⟨rfl, rfl⟩

/-- Offsets next to `STATUS` on both sides. -/
theorem witness_BusyWriteIsDropped : (0x008 : BitVec 23).toNat % 4 = 0 ∧ (0x008 : BitVec 23) ≠ 0x00C ∧
    (0x010 : BitVec 23).toNat % 4 = 0 ∧ (0x010 : BitVec 23) ≠ 0x00C := by decide

theorem witness_DroppedWriteLeavesCommandAlone : midMeasure.host = [] ∧ ∃ t, Reaches 1 midMeasure t :=
  ⟨rfl, ⟨_, rfl⟩⟩

/-- MEASURE may write CURSOR and not WIDTH; RUN may write the last cell below `W` and not the next, which is
unwritten. -/
theorem witness_BusyReadIsExactOrFree : regAt u1.scanMax 0x014 = .width ∧ scanWidth u1 = 10 ∧
    rowBits 10 .width .measure = 0 ∧ regAt u1.scanMax 0x028 = .cursor ∧ rowBits 10 .cursor .measure ≠ 0 ∧
    rowBits 10 (.sl 9) .run ≠ 0 ∧ rowBits 10 (.sl 10) .run = 0 ∧ sparseGet u1.sl 10 = none := by decide

theorem witness_BusyReadIsExactOrFree_state :
    (busyAt .measure (.skip 0) (.port 0x028 4 .read) u1).seq = .busy .measure (.skip 0) {} ∧
    (busyAt .measure (.skip 0) (.port 0x028 4 .read) u1).host = [⟨.after 0, .port 0x028 4 .read⟩] := ⟨rfl, rfl⟩

theorem witness_BusyStatusRead :
    (busyAt .measure (.skip 0) (.port (regOffset .status) 4 .read) u1).host =
      [⟨.after 0, .port (regOffset .status) 4 .read⟩] := rfl

/-- The first address after the window. -/
theorem witness_WindowLiesAtBase : (idleAt u1).seq = .idle ∧
    Config.emsdBase + 2 ^ 23 ≤ Config.emsdBase + 2 ^ 23 := ⟨rfl, Nat.le_refl _⟩

/-- MEASURE, at the end of the row of `d`, with the flags in `raced` cleared by the host. -/
def lastMeasure (raced : Status) : State :=
  { idleAt u1 with seq := .busy .measure (.count 10 0) { raced := raced } }

/-- UNPACK at the failing byte of U1's row, with BUSERR cleared by the host. -/
def lastUnpack : State :=
  { idleAt { u1Error with rowaddr := 0x1004 } with
    seq := .busy .unpack (.byte 1) { raced := { buserr := true } } }

/-- CLASSIFY at its second sample, which agrees with the first, with OOB cleared by the host. -/
def lastClassify : State :=
  { idleAt { u1 with sl := [(0, true)], modw := 3 } with
    seq := .busy .classify (.span (.far true)) { raced := { oob := true } } }

/-- Every clause: nothing raced, CFGERR and DONE raced, BUSERR raced, OOB raced. -/
theorem witness_RacedFlagIsFree : (blockStep (lastMeasure {})).seq = .idle ∧
    (blockStep (lastMeasure { cfgerr := true, done := true })).seq = .idle ∧
    (blockStep lastUnpack).seq = .idle ∧ (blockStep lastClassify).seq = .idle := by decide

/-- UNPACK before its first read, and before its second, with and without a race. -/
def atByte (pos : Pos) (race : Bool) : State :=
  { idleAt { u1 with rowaddr := 0x1004 } with seq := .busy .unpack pos { pixRace := race } }

/-- Both pixel bytes of U1's row, the padding byte after them, a byte that was read and one that was not, and a
raced read that answers. -/
theorem witness_PixelRaceMakesBytesFree : pixelBytes u1 = 2 ∧
    (∀ i < pixelBytes (atByte .start false).dp, (0x1006 : Word) ≠ rowByte (atByte .start false).dp i) ∧
    (0x1004 : Word) = rowByte (atByte (.byte 1) false).dp 0 ∧
    (0x1005 : Word) = rowByte (atByte (.byte 1) false).dp 1 ∧
    (atByte (.byte 1) true).seq = .busy .unpack (.byte 1) { pixRace := true } ∧
    pixelError u1.errs (0x1004 + BitVec.ofNat 32 1) = false ∧ 8 / 8 = 1 ∧ 8 < scanWidth u1 := by decide

theorem witness_PixelRaceMakesBytesFree_step :
    { atByte (.byte 1) false with host := [⟨.after 0, .pixelWrite 0x1004 0x00⟩] }.host =
      [⟨.after 0, .pixelWrite 0x1004 0x00⟩] := rfl

/-- A byte read already is drawn again (R74 (d)), and the race is remembered (R201). -/
theorem test_race_redraws_byte : after (step { atByte (.byte 1) false with
      host := [⟨.after 0, .pixelWrite 0x1004 0x00⟩] }) (fun t =>
    (sparseGet t.dp.mem 0x1004, t.dp.draws, decide (t.seq = (atByte (.byte 1) true).seq))) =
    some (some 0, 1, true) := by decide

/-- An idle block, and one in MEASURE. -/
theorem witness_PixelWriteStoresOneByte :
    { idleAt u1 with host := [⟨.whenIdle, .pixelWrite 0x1004 0⟩] }.seq = .idle ∧
    (busyAt .measure (.skip 0) (.pixelWrite 0x1004 0) u1).seq = .busy .measure (.skip 0) {} ∧
    (busyAt .run (.skip 0) (.pixelWrite 0x1004 0) u1).seq = .busy .run (.skip 0) {} ∧
    (busyAt .measure (.skip 0) (.pixelWrite 0x1004 0) u1).host = [⟨.after 0, .pixelWrite 0x1004 0⟩] :=
  ⟨rfl, rfl, rfl, rfl⟩

theorem witness_StepKeepsInvariant : Inv midMeasure ∧ ∃ t, step midMeasure = .next t :=
  ⟨⟨by decide, by decide, by decide, by decide⟩, ⟨_, rfl⟩⟩

theorem witness_EveryStepProgresses : hostInWindow disturbed := by
  intro t ht addr size a h
  simp only [disturbed, List.mem_cons, List.not_mem_nil, or_false] at ht
  subst ht
  cases h

theorem witness_EveryStepProgresses_waiting : (idleAt u1).seq = .idle ∧ (idleAt u1).host = [] := ⟨rfl, rfl⟩

theorem witness_BlockStepsReachStageMeaning : Op.classify ≠ .run ∧ Ready (idleAt s6) := ⟨by decide, rfl, rfl⟩

theorem witness_BlockStepsReachRunMeaning : Ready (idleAt u1) := ⟨rfl, rfl⟩

theorem witness_EveryBusyPeriodEnds : hostInWindow midMeasure := by
  intro t ht
  cases ht

end Sys2Proof.Tests
end

section
/-! PROOF. The layout of every register as the port reads it (R25 to R44), from the two words that pack
fields: `STATUS` (R28) and `RESULT` (R38, R39). -/

namespace Sys2Proof.Machine

/-! ## Zero-extended fields -/

/-- A zero-extended bit as a number (R26, R43). -/
theorem bitWord_toNat (b : Bool) : (bitWord b).toNat = if b then 1 else 0 := by
  cases b <;> rfl

/-- `SCAN_MAX` fits in its register: it is at most 2^20 (R9, R41). -/
theorem scanMax_word_toNat (d : Datapath) : (BitVec.ofNat 32 d.scanMax).toNat = d.scanMax := by
  have hcap : d.capPred.toNat < 2 ^ 20 := d.capPred.isLt
  have hmax : d.scanMax < 2 ^ 32 := by simp only [Datapath.scanMax]; omega
  rw [BitVec.toNat_ofNat, Nat.mod_eq_of_lt hmax]

/-! ## `STATUS` -/

/-- The fields of `STATUS` from bit 0 on, in the order of R28. -/
def statusFields (busy : Bool) (st : Status) : List Bool :=
  [busy, st.done, st.oob, st.nobar, st.clsbit, st.illcmd, st.cfgerr, st.buserr, st.busywr]

/-- `STATUS` holds its fields in order and 0 above them (R28). -/
theorem statusWord_getLsbD (busy : Bool) (st : Status) (i : Nat) :
    (statusWord busy st).getLsbD i = (statusFields busy st).getD i false := by
  have hbits : (statusWord busy st).getLsbD i =
      (busy && decide (i = 0) || st.done && decide (i = 1) || st.oob && decide (i = 2) ||
       st.nobar && decide (i = 3) || st.clsbit && decide (i = 4) || st.illcmd && decide (i = 5) ||
       st.cfgerr && decide (i = 6) || st.buserr && decide (i = 7) || st.busywr && decide (i = 8)) := by
    simp [statusWord, flagBit_getLsbD]
  rw [hbits]
  by_cases hi : i < 9
  · interval_cases i <;> simp [statusFields]
  · have hlen : (statusFields busy st).length ≤ i := by simp only [statusFields, List.length]; omega
    rw [List.getD_eq_default _ _ hlen]
    simp [show i ≠ 0 ∧ i ≠ 1 ∧ i ≠ 2 ∧ i ≠ 3 ∧ i ≠ 4 ∧ i ≠ 5 ∧ i ≠ 6 ∧ i ≠ 7 ∧ i ≠ 8 by omega]

/-- The bits of `STATUS` above `BUSYWR` read 0 (R12, R28). -/
theorem statusWord_getLsbD_reserved (busy : Bool) (st : Status) {i : Nat} (hi : 9 ≤ i) :
    (statusWord busy st).getLsbD i = false := by
  rw [statusWord_getLsbD]
  exact List.getD_eq_default _ _ hi

/-! ## `RESULT` -/

/-- `RCODE` fits in its four bits (R39). -/
theorem Result.rcode_lt (r : Result) : r.rcode < 16 := by
  cases r <;> simp [Result.rcode]

/-- `POS` fits in its three bits (R38). -/
theorem Result.pos_lt (r : Result) : r.pos < 8 := by
  cases r with
  | invalidDigitError p => exact p.isLt
  | _ => simp [Result.pos]

/-- `RESULT` as a number: no field is cut off. -/
theorem resultWord_toNat (r : Result) : (resultWord r).toNat = r.rcode + 256 * r.pos := by
  have hcode := r.rcode_lt
  have hpos := r.pos_lt
  rw [resultWord, BitVec.toNat_ofNat, Nat.mod_eq_of_lt (by omega)]

/-- A field of `RESULT` as a number. -/
theorem resultWord_extract_toNat (r : Result) (start len : Nat) :
    ((resultWord r).extractLsb' start len).toNat = (r.rcode + 256 * r.pos) / 2 ^ start % 2 ^ len := by
  rw [BitVec.extractLsb'_toNat, resultWord_toNat, Nat.shiftRight_eq_div_pow]

/-- Bits [3:0] of `RESULT` (R38). -/
theorem resultWord_rcode (r : Result) : (resultWord r).extractLsb' 0 4 = BitVec.ofNat 4 r.rcode := by
  apply BitVec.eq_of_toNat_eq
  rw [resultWord_extract_toNat, BitVec.toNat_ofNat]
  omega

/-- Bits [10:8] of `RESULT` (R38). -/
theorem resultWord_pos (r : Result) : ((resultWord r).extractLsb' 8 3).toNat = r.pos := by
  have hcode := r.rcode_lt
  have hpos := r.pos_lt
  rw [resultWord_extract_toNat]
  omega

/-- Bits [7:4] of `RESULT` are reserved (R12, R38). -/
theorem resultWord_reserved_low (r : Result) : (resultWord r).extractLsb' 4 4 = 0 := by
  have hcode := r.rcode_lt
  apply BitVec.eq_of_toNat_eq
  rw [resultWord_extract_toNat]
  change _ = 0
  omega

/-- Bits [31:11] of `RESULT` are reserved (R12, R38). -/
theorem resultWord_reserved_high (r : Result) : (resultWord r).extractLsb' 11 21 = 0 := by
  have hcode := r.rcode_lt
  have hpos := r.pos_lt
  apply BitVec.eq_of_toNat_eq
  rw [resultWord_extract_toNat]
  change _ = 0
  omega

/-! ## The scanline window -/

/-- A written scanline cell is read zero-extended (R43). -/
theorem readReg_sl_written {busy : Bool} {i : Nat} {d : Datapath} {c : Colour} (h : sparseGet d.sl i = some c) :
    readReg busy (.sl i) d = (bitWord c, d) := by
  simp only [readReg, readCell_written h]

end Sys2Proof.Machine

namespace Sys2Proof.Proofs

open Sys2Proof.Machine

/-- Settles O44: the registers that are one field read it by definition; `STATUS` and `RESULT` are taken bit
by bit from `statusWord_getLsbD` and the `resultWord` lemmas. -/
theorem registerLayouts : Obligations.RegisterLayouts := by
  intro busy d read
  have status (i : Nat) : (read .status).getLsbD i = (statusFields busy d.status).getD i false :=
    statusWord_getLsbD busy d.status i
  have rcode : (read .result).extractLsb' 0 4 = BitVec.ofNat 4 d.result.rcode := resultWord_rcode d.result
  have pos : ((read .result).extractLsb' 8 3).toNat = d.result.pos := resultWord_pos d.result
  have cell (i : Nat) (c : Colour) (h : sparseGet d.sl i = some c) :
      (read (.sl i)).toNat = if c then 1 else 0 := by
    simp only [read, readReg_sl_written h, bitWord_toNat]
  refine ⟨rfl, rfl, rfl, bitWord_toNat d.ie,
    status 0, status 1, status 2, status 3, status 4, status 5, status 6, status 7, status 8,
    fun _ => statusWord_getLsbD_reserved busy d.status,
    BitVec.toNat_setWidth_of_le (by decide), rfl, rfl, rfl, rfl, rfl, rfl, rfl, rfl,
    rcode.trans ?_, pos.trans ?_, resultWord_reserved_low d.result, resultWord_reserved_high d.result,
    scanMax_word_toNat d, fun _ => BitVec.toNat_setWidth_of_le (by decide), cell⟩
  case refine_1 => cases d.result <;> rfl
  case refine_2 => cases d.result <;> rfl

end Sys2Proof.Proofs
end

section
/-! PROOF. What a turn of the block may write, command by command (R45), and the invariant it keeps. -/

namespace Sys2Proof.Machine

/-! ## R45's row of a command -/

/-- `d` with everything blanked that R45's row of `op` lists, the port's trace and the draw counter: two
datapaths agree outside the row exactly when these are equal. -/
def outsideRow (op : Op) (d : Datapath) : Datapath :=
  let e := { d with status := d.status.without (mayWriteStatus op), pixReads := [], draws := 0 }
  match op with
  | .unpack => { e with rowsel := 0, rowaddr := 0, sl := [] }
  | .measure => { e with cursor := 0, modw := 0 }
  | .classify => e
  | .assemble => { e with cursor := 0, codes := Vector.replicate 11 0 }
  | .translate => { e with result := .none, digits := 0 }
  | .run => { e with
      rowsel := 0, rowaddr := 0, sl := [], cursor := 0, modw := 0, codes := Vector.replicate 11 0
      result := .none, digits := 0 }

/-- From `d` to `d'` nothing changed that R45's row of `op` does not list, and no cell at or above `W`. -/
structure WritesRow (op : Op) (d d' : Datapath) : Prop where
  outside : outsideRow op d' = outsideRow op d
  beyond  : ∀ x, scanWidth d ≤ x → sparseGet d'.sl x = sparseGet d.sl x

namespace WritesRow

variable {op : Op} {d d' d'' : Datapath}

theorem refl (op : Op) (d : Datapath) : WritesRow op d d := ⟨rfl, fun _ _ => rfl⟩

/-- A change that leaves the scanline alone. -/
theorem of_sl_eq (h : outsideRow op d' = outsideRow op d) (hsl : d'.sl = d.sl) : WritesRow op d d' :=
  ⟨h, fun _ _ => by rw [hsl]⟩

/-- R45's table, field by field: what is in no row, then what each command's row leaves out. -/
theorem fields (h : WritesRow op d d') :
    d'.ie = d.ie ∧ d'.offset = d.offset ∧ d'.width = d.width ∧ d'.height = d.height ∧
    d'.pixbase = d.pixbase ∧ d'.capPred = d.capPred ∧ d'.mem = d.mem ∧ d'.errs = d.errs ∧
    d'.status.illcmd = d.status.illcmd ∧ d'.status.busywr = d.status.busywr ∧
    (op ≠ .unpack → op ≠ .run →
      d'.rowsel = d.rowsel ∧ d'.rowaddr = d.rowaddr ∧ d'.sl = d.sl ∧ d'.status.buserr = d.status.buserr) ∧
    (op ≠ .measure → op ≠ .run → d'.modw = d.modw ∧ d'.status.nobar = d.status.nobar) ∧
    (op ≠ .measure → op ≠ .assemble → op ≠ .run → d'.cursor = d.cursor) ∧
    (op ≠ .classify → d'.status.clsbit = d.status.clsbit) ∧
    (op ≠ .assemble → op ≠ .run → d'.codes = d.codes) ∧
    (op ≠ .classify → op ≠ .assemble → op ≠ .run → d'.status.oob = d.status.oob) ∧
    (op ≠ .translate → op ≠ .run → d'.result = d.result ∧ d'.digits = d.digits) ∧
    (op = .translate → d'.status.cfgerr = d.status.cfgerr) ∧
    ∀ x, scanWidth d ≤ x → sparseGet d'.sl x = sparseGet d.sl x := by
  obtain ⟨outside, beyond⟩ := h
  cases op <;>
    simp [outsideRow, Status.without, mayWriteStatus] at outside <;> simp +contextual [outside, beyond]

theorem ie (h : WritesRow op d d') : d'.ie = d.ie := by
  have key := congrArg Datapath.ie h.outside
  cases op <;> exact key

theorem width (h : WritesRow op d d') : d'.width = d.width := by
  have key := congrArg Datapath.width h.outside
  cases op <;> exact key

theorem illcmd (h : WritesRow op d d') : d'.status.illcmd = d.status.illcmd := by
  have key := congrArg (fun d => d.status.illcmd) h.outside
  cases op <;> simpa [outsideRow, Status.without, mayWriteStatus] using key

theorem busywr (h : WritesRow op d d') : d'.status.busywr = d.status.busywr := by
  have key := congrArg (fun d => d.status.busywr) h.outside
  cases op <;> simpa [outsideRow, Status.without, mayWriteStatus] using key

theorem trans (h : WritesRow op d d') (h' : WritesRow op d' d'') : WritesRow op d d'' where
  outside := h'.outside.trans h.outside
  beyond x hx := by
    have hx' : scanWidth d' ≤ x := by rwa [scanWidth, h.width]
    rw [h'.beyond x hx', h.beyond x hx]

end WritesRow
/-! ## The part of the invariant that is about the datapath -/

/-- The invariant's clauses on storage, `RESULT` and `DIGITS` (R40, R43, R60). -/
structure Stored (d : Datapath) : Prop where
  mem    : Memory.wf d.mem = true
  sl     : Scanline.wf d.scanMax d.sl = true
  digits : digitsOk d = true

/-- What the block may do to the datapath between acceptance and `finish()` of `op`: write its row (R45), keep
`DONE` (R150), set sticky flags and never clear one (R28), keep the stored data in form. Each clause but
the first has as its default the proof for an update that does not touch what it speaks of. -/
structure TurnEffect (op : Op) (d d' : Datapath) : Prop where
  row    : WritesRow op d d'
  done   : d'.status.done = d.status.done := by rfl
  oob    : d.status.oob = true → d'.status.oob = true := by exact id
  cfgerr : d.status.cfgerr = true → d'.status.cfgerr = true := by exact id
  buserr : d.status.buserr = true → d'.status.buserr = true := by exact id
  stored : Stored d → Stored d' := by exact fun h => ⟨h.mem, h.sl, h.digits⟩

/-! ### The configuration checks -/

/-- `W` is at most SCAN_MAX where the check passes (R161). -/
theorem scanWidth_le_scanMax {d : Datapath} (h : widthOk d = true) : scanWidth d ≤ d.scanMax := by
  simp only [widthOk, Bool.and_eq_true, decide_eq_true_eq] at h
  simp only [scanWidth]
  omega

/-- `W` is at least 1 where the check passes (R161). -/
theorem scanWidth_pos {d : Datapath} (h : widthOk d = true) : 0 < scanWidth d := by
  simp only [widthOk, Bool.and_eq_true, decide_eq_true_eq] at h
  simp only [scanWidth]
  omega

/-- The image check contains the width check (R161). -/
theorem widthOk_of_imageOk {d : Datapath} (h : imageOk d = true) : widthOk d = true := by
  simp only [imageOk, Bool.and_eq_true] at h
  exact h.1

/-- A row of at least one pixel has at least one pixel byte (R103). -/
theorem pixelBytes_pos {d : Datapath} (h : imageOk d = true) : 0 < pixelBytes d := by
  have hw := scanWidth_pos (widthOk_of_imageOk h)
  simp only [pixelBytes]
  omega

/-! ### `DIGITS` -/

/-- A nibble of `DIGITS` as a number. -/
theorem digitAt_eq (w : Word) (j : Nat) : digitAt w j = w.toNat / 2 ^ (28 - 4 * j) % 16 := by
  rw [digitAt, BitVec.extractLsb'_toNat, Nat.shiftRight_eq_div_pow]

/-- `packDigits` appends a digit in the last nibble and moves the others up (R40, R143). -/
theorem digitAt_append (acc : Word) (x : Fin 10) {j : Nat} (hj : j < 8) :
    digitAt ((acc <<< 4) ||| BitVec.ofNat 32 x.val) j = if j = 7 then x.val else digitAt acc (j + 1) := by
  have hx : x.val < 2 ^ 4 := by omega
  have hword : ((acc <<< 4) ||| BitVec.ofNat 32 x.val).toNat = (16 * acc.toNat + x.val) % 2 ^ 32 := by
    have hor := Nat.shiftLeft_add_eq_or_of_lt hx (acc.toNat % 2 ^ 28)
    have hlow : acc.toNat <<< 4 % 2 ^ 32 = (acc.toNat % 2 ^ 28) <<< 4 := by
      simp only [Nat.shiftLeft_eq]
      omega
    have hdigit : x.val % 2 ^ 32 = x.val := Nat.mod_eq_of_lt (by omega)
    rw [BitVec.toNat_or, BitVec.toNat_shiftLeft, BitVec.toNat_ofNat, hlow, hdigit, ← hor, Nat.shiftLeft_eq]
    omega
  rw [digitAt_eq, digitAt_eq, hword]
  split
  · next h7 => subst h7; omega
  · next h7 => interval_cases j <;> omega

/-- `DIGITS` while digits are appended: the word's nibbles move up, the digits follow them (R40, R143). -/
theorem digitAt_foldl : ∀ (ds : List (Fin 10)) (acc : Word) {j : Nat}, j < 8 →
    digitAt (ds.foldl (fun acc x => (acc <<< 4) ||| BitVec.ofNat 32 x.val) acc) j =
      if j + ds.length < 8 then digitAt acc (j + ds.length) else (ds.getD (j + ds.length - 8) 0).val := by
  intro ds
  induction ds with
  | nil => intro acc j hj; simp [hj]
  | cons x ds ih =>
    intro acc j hj
    rw [List.foldl_cons, ih _ hj, List.length_cons, ← Nat.add_assoc]
    rcases Nat.lt_trichotomy (j + ds.length) 7 with hlt | heq | hgt
    · rw [if_pos (by omega), if_pos (by omega), digitAt_append acc x (by omega), if_neg (by omega)]
    · rw [if_pos (by omega), if_neg (by omega), digitAt_append acc x (by omega), if_pos heq, heq]
      rfl
    · have hindex : j + ds.length + 1 - 8 = (j + ds.length - 8) + 1 := by omega
      rw [if_neg (by omega), if_neg (by omega), hindex, List.getD_cons_succ]

/-- Every nibble of packed digits is a decimal digit (R40). -/
theorem digitAt_packDigits_le (ds : List (Fin 10)) {j : Nat} (hj : j < 8) : digitAt (packDigits ds) j ≤ 9 := by
  rw [packDigits, digitAt_foldl ds 0 hj]
  split
  · rw [digitAt_eq]; simp
  · exact Nat.le_of_lt_succ (Fin.isLt _)

/-- TRANSLATE's end leaves `RESULT` and `DIGITS` in agreement, whatever it found (R40, R140). -/
theorem digitsOk_endTranslate (r : Result) (ds : List (Fin 10)) (d : Datapath) :
    digitsOk (endTranslate r ds d) = true := by
  by_cases hr : r = .ok
  · simp only [digitsOk, endTranslate_result, endTranslate_digits, hr, if_true, List.all_eq_true,
      List.mem_range, decide_eq_true_eq]
    exact fun j hj => digitAt_packDigits_le ds hj
  · simp [digitsOk, hr]

/-! ### The effect of each named update -/

namespace TurnEffect

variable {op : Op} {d d' d'' : Datapath}

theorem refl (op : Op) (d : Datapath) : TurnEffect op d d :=
  { row := .refl op d }

theorem trans (h : TurnEffect op d d') (h' : TurnEffect op d' d'') : TurnEffect op d d'' where
  row := h.row.trans h'.row
  done := h'.done.trans h.done
  oob := h'.oob ∘ h.oob
  cfgerr := h'.cfgerr ∘ h.cfgerr
  buserr := h'.buserr ∘ h.buserr
  stored := h'.stored ∘ h.stored

/-- The draw counter is in no row (R15). -/
theorem draws (op : Op) (d : Datapath) (n : Nat) : TurnEffect op d { d with draws := n } where
  row := .of_sl_eq (by cases op <;> rfl) rfl

/-- A failed configuration check (R161). -/
theorem cfgError (hop : op ≠ .translate) (d : Datapath) :
    TurnEffect op d { d with status := { d.status with cfgerr := true } } where
  row := .of_sl_eq (by cases op <;> simp_all [outsideRow, Status.without, mayWriteStatus]) rfl
  cfgerr _ := rfl

/-- A pixel read that is answered with an error (R162). -/
theorem busError (hop : op = .unpack ∨ op = .run) (d : Datapath) (reads : List Word) :
    TurnEffect op d { d with pixReads := reads, status := { d.status with buserr := true } } where
  row := .of_sl_eq (by rcases hop with rfl | rfl <;> simp [outsideRow, Status.without, mayWriteStatus]) rfl
  buserr _ := rfl

theorem selectRow (hop : op = .unpack ∨ op = .run) (d : Datapath) : TurnEffect op d (selectRow d) where
  row := .of_sl_eq (by rcases hop with rfl | rfl <;> rfl) rfl

/-- The cells of a pixel byte lie below `W` (R103). -/
theorem storeByte (hop : op = .unpack ∨ op = .run) (hw : widthOk d = true) (j : Nat) (b : Byte)
    (reads : List Word) (n : Nat) :
    TurnEffect op d (storeByte j b { d with pixReads := reads, draws := n }) := by
  have hget := storeByte_get j b { d with pixReads := reads, draws := n }
  have hwf := storeByte_wf (j := j) (b := b) (d := { d with pixReads := reads, draws := n })
    (scanWidth_le_scanMax hw)
  obtain ⟨sl, e⟩ := storeByte_frame j b { d with pixReads := reads, draws := n }
  rw [e] at hget hwf ⊢
  refine ⟨⟨by rcases hop with rfl | rfl <;> rfl, fun x hx => ?_⟩, rfl, id, id, id,
    fun h => ⟨h.mem, hwf h.sl, h.digits⟩⟩
  have hx' : ¬ x < scanWidth { d with pixReads := reads, draws := n } := Nat.not_lt.2 hx
  simpa [hx'] using hget x

theorem endMeasure (hop : op = .measure ∨ op = .run) (p n : Nat) (d : Datapath) :
    TurnEffect op d (endMeasure p n d) where
  row := .of_sl_eq (by rcases hop with rfl | rfl <;> simp [outsideRow, Status.without, mayWriteStatus]) rfl

/-- The reads of the sampler (R110). -/
theorem sampler (hop : op = .classify ∨ op = .assemble ∨ op = .run) {o : Bool}
    (ho : d.status.oob = true → o = true) (n : Nat) :
    TurnEffect op d { d with status := { d.status with oob := o }, draws := n } where
  row := .of_sl_eq (by rcases hop with rfl | rfl | rfl <;> simp [outsideRow, Status.without, mayWriteStatus]) rfl
  oob := ho

theorem endClassify (c : Colour) (d : Datapath) : TurnEffect .classify d (endClassify c d) where
  row := .of_sl_eq (by simp [outsideRow, Status.without, mayWriteStatus]) rfl

theorem setCode (hop : op = .assemble ∨ op = .run) (k : Fin 11) (v : Code) (d : Datapath) :
    TurnEffect op d (setCode k v d) where
  row := .of_sl_eq (by rcases hop with rfl | rfl <;> rfl) rfl

/-- The last line of ASSEMBLE (R126). -/
theorem cursor (hop : op = .assemble ∨ op = .run) (c : Word) (d : Datapath) :
    TurnEffect op d { d with cursor := c } where
  row := .of_sl_eq (by rcases hop with rfl | rfl <;> rfl) rfl

theorem endTranslate (hop : op = .translate ∨ op = .run) (r : Result) (ds : List (Fin 10)) (d : Datapath) :
    TurnEffect op d (endTranslate r ds d) where
  row := .of_sl_eq (by rcases hop with rfl | rfl <;> rfl) rfl
  stored h := ⟨h.mem, h.sl, digitsOk_endTranslate r ds d⟩

end TurnEffect

end Sys2Proof.Machine
end

section
/-! PROOF. One turn of the block keeps the position invariant and writes only its command's row (R22, R45, R46). -/

namespace Sys2Proof.Machine

variable {op : Op} {d : Datapath}

/-! ## The position invariant, position by position -/

@[simp] theorem posOk_start : posOk op .start d = true := rfl

@[simp] theorem posOk_byte {j : Nat} : posOk op (.byte j) d = true ↔
    (op = .unpack ∨ op = .run) ∧ imageOk d = true ∧ j < pixelBytes d ∧
      d.rowsel = BitVec.ofNat 32 (logicalRow d) ∧ d.rowaddr = rowAddress d := by
  simp [posOk, and_assoc]

@[simp] theorem posOk_skip {p : Nat} : posOk op (.skip p) d = true ↔
    (op = .measure ∨ op = .run) ∧ widthOk d = true ∧ p ≤ scanWidth d := by
  simp [posOk, and_assoc]

@[simp] theorem posOk_count {p n : Nat} : posOk op (.count p n) d = true ↔
    (op = .measure ∨ op = .run) ∧ widthOk d = true ∧ p + n ≤ scanWidth d ∧ (0 < n ∨ p = scanWidth d) := by
  simp [posOk, and_assoc]

@[simp] theorem posOk_span {v : Vote} : posOk op (.span v) d = true ↔
    op = .classify ∧ widthOk d = true ∧ voteOk d.modw.toNat v = true := by
  simp [posOk, and_assoc]

@[simp] theorem posOk_sample {k : Fin 11} {m : Nat} {acc : Code} {c : Word} {v : Vote} :
    posOk op (.sample k m acc c v) d = true ↔
      (op = .assemble ∨ op = .run) ∧ widthOk d = true ∧ m < segLen k ∧ acc.toNat < 2 ^ m ∧
        voteOk d.modw.toNat v = true := by
  simp [posOk, and_assoc]

@[simp] theorem posOk_check {k : Fin 11} {found : List (Fin 10)} : posOk op (.check k found) d = true ↔
    (op = .translate ∨ op = .run) ∧ found.length = digitsBefore k := by
  simp [posOk]

/-- The invariant of a position speaks of the configuration, the row registers and `MODW` alone. -/
theorem posOk_frame (op : Op) (pos : Pos) (d : Datapath) (st : Status) (sl : Scanline) (mem : Memory) (n : Nat) :
    posOk op pos { d with status := st, sl := sl, mem := mem, draws := n } = posOk op pos d := by
  cases pos <;> rfl

/-- After a phase only RUN goes on (R153). -/
@[simp] theorem afterPhase_eq_some {next pos : Pos} : afterPhase op next = some pos ↔ op = .run ∧ next = pos := by
  cases op <;> simp [afterPhase]

/-! ## One turn -/

/-- A turn of `op` from `d` to the datapath and the next position `r`: its effect, and the invariant of the next
position. -/
structure TurnOk (op : Op) (d : Datapath) (r : Datapath × Option Pos) : Prop where
  effect : TurnEffect op d r.1
  next   : ∀ pos, r.2 = some pos → posOk op pos r.1 = true

/-- A turn after which the body has ended. -/
theorem TurnOk.last {d' : Datapath} (h : TurnEffect op d d') : TurnOk op d (d', none) := ⟨h, by simp⟩

/-- A turn after which the command goes on at `pos`. -/
theorem TurnOk.goOn {d' : Datapath} {pos : Pos} (h : TurnEffect op d d') (hpos : posOk op pos d' = true) :
    TurnOk op d (d', some pos) := ⟨h, by simpa using hpos⟩

/-- A turn that ends a phase: the invariant of where RUN goes on is needed for RUN alone (R153). -/
theorem TurnOk.phaseEnd {d' : Datapath} {next : Pos} (h : TurnEffect op d d')
    (hpos : op = .run → posOk op next d' = true) : TurnOk op d (d', afterPhase op next) :=
  ⟨h, fun pos hp => by
    obtain ⟨hrun, rfl⟩ := afterPhase_eq_some.1 hp
    exact hpos hrun⟩

/-- The configuration check (R161). -/
theorem startStep_ok (op : Op) (d : Datapath) : TurnOk op d (startStep op d) := by
  have check : ∀ {c : Bool} {r : Datapath × Option Pos}, op ≠ .translate → (c = true → TurnOk op d r) →
      TurnOk op d (if c then r else (bodyEnd (raise .cfgError d), none)) := by
    intro c r hop hr
    cases c with
    | true => exact hr rfl
    | false => exact .last (.cfgError hop d)
  cases op with
  | unpack => exact check (by decide) fun h => .goOn (.selectRow (.inl rfl) d) (by
      simpa using ⟨h, pixelBytes_pos h, rfl, rfl⟩)
  | measure => exact check (by decide) fun h => .goOn (.refl _ d) (by simpa using h)
  | classify => exact check (by decide) fun h => .goOn (.refl _ d) (by simpa [voteOk] using h)
  | assemble => exact check (by decide) fun h => .goOn (.refl _ d) (by simpa [startSampling, voteOk, segLen] using h)
  | translate => exact .goOn (.refl _ d) (by simp [digitsBefore])
  | run => exact check (by decide) fun h => .goOn (.selectRow (.inr rfl) d) (by
      simpa using ⟨h, pixelBytes_pos h, rfl, rfl⟩)

/-- UNPACK at pixel byte `j` (R103, R162). -/
theorem posStep_byte_ok {race : Bool} {j : Nat} (h : posOk op (.byte j) d = true) :
    TurnOk op d (posStep op race (.byte j) d) := by
  obtain ⟨hop, hi, hj, hsel, haddr⟩ := posOk_byte.1 h
  have hw := widthOk_of_imageOk hi
  rcases unpackByte_cases race j d with ⟨-, e⟩ | ⟨-, b, n, -, -, e⟩
  · simp only [posStep, e]
    exact .last (.busError hop d _)
  · have effect := TurnEffect.storeByte hop hw j b (d.pixReads ++ [d.rowaddr + BitVec.ofNat 32 j]) n
    obtain ⟨sl, hsl⟩ := storeByte_frame j b
      { d with pixReads := d.pixReads ++ [d.rowaddr + BitVec.ofNat 32 j], draws := n }
    simp only [posStep, e]
    rw [hsl] at effect ⊢
    split
    · next hlt => exact .goOn effect (posOk_byte.2 ⟨hop, hi, hlt, hsel, haddr⟩)
    · exact .phaseEnd effect fun hrun => posOk_skip.2 ⟨.inr hrun, hw, Nat.zero_le _⟩

/-- MEASURE in its margin skip (R112). -/
theorem posStep_skip_ok {race : Bool} {p : Nat} (h : posOk op (.skip p) d = true) :
    TurnOk op d (posStep op race (.skip p) d) := by
  obtain ⟨hop, hw, hp⟩ := posOk_skip.1 h
  simp only [posStep]
  split
  · next hlt =>
    obtain ⟨n, -, -, e⟩ := readCell_frame p d
    rcases hr : readCell p d with ⟨_ | _, d'⟩
    · obtain rfl : d' = { d with draws := n } := by rw [← e, hr]
      exact .goOn (.draws op d n) (posOk_count.2 ⟨hop, hw, hlt, .inl Nat.one_pos⟩)
    · obtain rfl : d' = { d with draws := n } := by rw [← e, hr]
      exact .goOn (.draws op d n) (posOk_skip.2 ⟨hop, hw, hlt⟩)
  · exact .goOn (.refl op d) (posOk_count.2 ⟨hop, hw, hp, .inr (by omega)⟩)

/-- The last turn of MEASURE's phase (R112, R113, R153). -/
theorem endMeasure_ok (hop : op = .measure ∨ op = .run) (hw : widthOk d = true) {d' : Datapath} {m : Nat}
    (e : d' = { d with draws := m }) (p n : Nat) :
    TurnOk op d (endMeasure p n d', afterPhase op (startSampling (endMeasure p n d'))) := by
  subst e
  exact .phaseEnd ((TurnEffect.draws op d m).trans (.endMeasure hop p n _)) fun hrun =>
    posOk_sample.2 ⟨.inr hrun, hw, by decide, by decide, rfl⟩

/-- MEASURE in its width count (R112, R113). -/
theorem posStep_count_ok {race : Bool} {p n : Nat} (h : posOk op (.count p n) d = true) :
    TurnOk op d (posStep op race (.count p n) d) := by
  obtain ⟨hop, hw, -, -⟩ := posOk_count.1 h
  simp only [posStep]
  split
  · next hlt =>
    obtain ⟨m, -, -, e⟩ := readCell_frame (p + n) d
    rcases hr : readCell (p + n) d with ⟨_ | _, d'⟩
    · obtain rfl : d' = { d with draws := m } := by rw [← e, hr]
      exact .goOn (.draws op d m) (posOk_count.2 ⟨hop, hw, hlt, .inl (Nat.succ_pos n)⟩)
    · exact endMeasure_ok hop hw (by rw [← e, hr]) p n
  · exact endMeasure_ok hop hw (m := d.draws) rfl p n

/-! ### The sampler's turns -/

/-- One step of `Classify` is a sampler read (R115). -/
theorem voteStep_frame (buf bw off : Nat) (v : Vote) (d : Datapath) :
    ∃ o n, (d.status.oob = true → o = true) ∧ d.draws ≤ n ∧
      (voteStep buf bw off v d).2 = { d with status := { d.status with oob := o }, draws := n } := by
  cases v with
  | first => exact slRead_frame buf d
  | far a =>
    have h := slRead_frame (farIndex buf bw off) d
    simp only [voteStep]
    split
    · exact h
    · split <;> exact h
  | window k darks lights =>
    have h := slRead_frame (windowIndex buf off k) d
    rw [← voteTurn_snd buf bw off k darks lights d] at h
    simp only [voteStep]
    split
    · next e => rwa [e] at h
    · next e =>
      rw [e] at h
      split <;> exact h

/-- The counts of a turn that decides nothing: one pixel more, and no strict majority (R115). -/
theorem voteTurn_counted {buf bw off k darks lights x y : Nat} {d d' : Datapath}
    (h : voteTurn buf bw off k darks lights d = (.counted x y, d')) :
    x + y = darks + lights + 1 ∧ x ≤ bw / 2 ∧ y ≤ bw / 2 := by
  rw [voteTurn_eq] at h
  obtain ⟨h, -⟩ := Prod.mk.inj h
  generalize (slRead (windowIndex buf off k) d).1 = c at h
  have hsum : (if c then darks else darks + 1) + (if c then lights + 1 else lights) = darks + lights + 1 := by
    cases c
    · exact Nat.add_right_comm darks 1 lights
    · rfl
  generalize (if c then darks else darks + 1) = darks' at h hsum
  generalize (if c then lights + 1 else lights) = lights' at h hsum
  split at h
  · simp at h
  · split at h
    · simp at h
    · obtain ⟨rfl, rfl⟩ := Ballot.counted.inj h
      omega

/-- The counts of the vote stay those of the pixels read, with no strict majority (R115, R46). -/
theorem voteStep_voteOk {buf bw off : Nat} {v v' : Vote} {d d' : Datapath} (hv : voteOk bw v = true)
    (h : voteStep buf bw off v d = (.inl v', d')) : voteOk bw v' = true := by
  cases v with
  | first =>
    simp only [voteStep, Prod.mk.injEq, Sum.inl.injEq] at h
    rw [← h.1]
    rfl
  | far a =>
    simp only [voteStep] at h
    split at h
    · simp at h
    · split at h
      · simp at h
      · next hbw =>
        simp only [Prod.mk.injEq, Sum.inl.injEq] at h
        rw [← h.1]
        simpa [voteOk] using Nat.pos_of_ne_zero hbw
  | window k darks lights =>
    simp only [voteOk, Bool.and_eq_true, decide_eq_true_eq] at hv
    simp only [voteStep] at h
    split at h
    · simp at h
    · next e =>
      have hcounts := voteTurn_counted e
      split at h
      · simp only [Prod.mk.injEq, Sum.inl.injEq] at h
        rw [← h.1]
        simp only [voteOk, Bool.and_eq_true, decide_eq_true_eq]
        omega
      · simp at h

/-- CLASSIFY (R117). -/
theorem posStep_span_ok {race : Bool} {v : Vote} (h : posOk op (.span v) d = true) :
    TurnOk op d (posStep op race (.span v) d) := by
  obtain ⟨rfl, hw, hv⟩ := posOk_span.1 h
  obtain ⟨o, n, ho, -, e⟩ := voteStep_frame d.cursor.toNat d.modw.toNat d.offset.toNat v d
  have effect := TurnEffect.sampler (.inl rfl) ho n
  simp only [posStep]
  rw [← e] at effect
  split
  · next v' d' he =>
    rw [he] at e effect
    subst e
    exact .goOn effect (posOk_span.2 ⟨rfl, hw, voteStep_voteOk hv he⟩)
  · next c d' he =>
    rw [he] at effect
    exact .last (effect.trans (.endClassify c d'))

/-- The accumulator of `m + 1` modules has `m + 1` bits (R126). -/
theorem shiftIn_lt {acc : Code} {m : Nat} (h : acc.toNat < 2 ^ m) (c : Colour) :
    (shiftIn acc c).toNat < 2 ^ (m + 1) := by
  have hbit : (if c then 1 else 0 : Code).toNat ≤ 1 := by cases c <;> decide
  rw [shiftIn, BitVec.toNat_add, BitVec.toNat_shiftLeft, Nat.shiftLeft_eq, pow_succ]
  have h1 := Nat.mod_le (acc.toNat * 2 ^ 1 % 2 ^ 7 + (if c then 1 else 0 : Code).toNat) (2 ^ 7)
  have h2 := Nat.mod_le (acc.toNat * 2 ^ 1) (2 ^ 7)
  omega

/-- Every segment has a module (R125). -/
theorem segLen_pos (k : Fin 11) : 0 < segLen k := by revert k; decide

/-- ASSEMBLE (R126). -/
theorem posStep_sample_ok {race : Bool} {k : Fin 11} {m : Nat} {acc : Code} {c : Word} {v : Vote}
    (h : posOk op (.sample k m acc c v) d = true) :
    TurnOk op d (posStep op race (.sample k m acc c v) d) := by
  obtain ⟨hop, hw, hm, hacc, hv⟩ := posOk_sample.1 h
  obtain ⟨o, n, ho, -, e⟩ := voteStep_frame c.toNat d.modw.toNat d.offset.toNat v d
  have effect := TurnEffect.sampler (.inr hop) ho n
  simp only [posStep]
  rw [← e] at effect
  split
  · next v' d' he =>
    rw [he] at e effect
    subst e
    exact .goOn effect (posOk_sample.2 ⟨hop, hw, hm, hacc, voteStep_voteOk hv he⟩)
  · next x d' he =>
    rw [he] at e effect
    subst e
    split
    · next hlt => exact .goOn effect (posOk_sample.2 ⟨hop, hw, hlt, shiftIn_lt hacc x, rfl⟩)
    · have stored := effect.trans (.setCode hop k (shiftIn acc x) _)
      split
      · next k' _ => exact .goOn stored (posOk_sample.2 ⟨hop, hw, segLen_pos k', by decide, rfl⟩)
      · exact .phaseEnd (stored.trans (.cursor hop _ _)) fun hrun => posOk_check.2 ⟨.inr hrun, rfl⟩

/-! ### TRANSLATE's turns -/

/-- Which codes are guards (R125, R140). -/
def isGuard (k : Fin 11) : Bool := k = 0 || k = 5 || k = 10

/-- The check of a guard gives no digit, and the check of a digit's code does not just pass (R140). -/
theorem checkCode_kind (k : Fin 11) (v : Code) :
    (checkCode k v = .pass → isGuard k = true) ∧ ∀ x, checkCode k v = .digit x → isGuard k = false := by
  have guard (want : Code) (r : Result) : ∀ x, checkGuard want v r ≠ .digit x := by
    intro x
    unfold checkGuard
    split <;> simp
  have digit (table : List Code) (p : Fin 8) : checkDigit table v p ≠ .pass := by
    unfold checkDigit
    split <;> simp
  fin_cases k <;> simp [checkCode, isGuard, guard, digit]

/-- How the count of digits found goes from one code to the next (R140). -/
theorem digitsBefore_next : ∀ k k' : Fin 11, nextSegment k = some k' →
    digitsBefore k' = digitsBefore k + if isGuard k then 0 else 1 := by decide

/-- TRANSLATE (R140, R142). -/
theorem posStep_check_ok {race : Bool} {k : Fin 11} {found : List (Fin 10)}
    (h : posOk op (.check k found) d = true) : TurnOk op d (posStep op race (.check k found) d) := by
  obtain ⟨hop, hlen⟩ := posOk_check.1 h
  simp only [posStep]
  split
  · exact .last (.endTranslate hop _ _ d)
  · next hpass =>
    split
    · next k' hk => exact .goOn (.refl op d) (posOk_check.2 ⟨hop, by
        rw [hlen, digitsBefore_next k k' hk, (checkCode_kind k _).1 hpass, if_pos rfl, Nat.add_zero]⟩)
    · exact .last (.endTranslate hop _ _ d)
  · next x hdigit =>
    split
    · next k' hk =>
      have hkind := (checkCode_kind k _).2 x hdigit
      exact .goOn (.refl op d) (posOk_check.2 ⟨hop, by simp [hlen, digitsBefore_next k k' hk, hkind]⟩)
    · exact .last (.endTranslate hop _ _ d)

/-- Every turn of the block: its effect on the datapath, and the invariant of the next position
(R22, R45, R46). -/
theorem posStep_ok {race : Bool} {pos : Pos} (h : posOk op pos d = true) : TurnOk op d (posStep op race pos d) := by
  cases pos with
  | start => exact startStep_ok op d
  | byte j => exact posStep_byte_ok h
  | skip p => exact posStep_skip_ok h
  | count p n => exact posStep_count_ok h
  | span v => exact posStep_span_ok h
  | sample k m acc c v => exact posStep_sample_ok h
  | check k found => exact posStep_check_ok h

end Sys2Proof.Machine
end

section
/-! PROOF. The block's own turns do what the command bodies do at once (R22, R46, R150). -/

namespace Sys2Proof.Machine

/-! ## Turns of the block until the body ends -/

/-- The turns of an undisturbed command `op` from a position, or from the end of its body, leave `d'`. -/
inductive RunsTo (op : Op) : Option Pos → Datapath → Datapath → Prop
  | ended (d : Datapath) : RunsTo op none d d
  | turn {pos : Pos} {next : Option Pos} {d d₁ d' : Datapath} (h : posStep op false pos d = (d₁, next))
      (rest : RunsTo op next d₁ d') : RunsTo op (some pos) d d'

/-- From `pos` at `d` the block's turns do what a body does that gives `r`: where it raises they end, else they
go on from `next`. -/
def Performs (op : Op) (pos : Pos) (d : Datapath) (r : Except Datapath Datapath)
    (next : Datapath → Option Pos) : Prop :=
  match r with
  | .error d₁ => RunsTo op (some pos) d d₁
  | .ok d₁ => ∀ d', RunsTo op (next d₁) d₁ d' → RunsTo op (some pos) d d'

namespace Performs

variable {op : Op} {pos pos₁ : Pos} {d d₁ : Datapath} {r : Except Datapath Datapath} {next : Datapath → Option Pos}

/-- One turn before the others. -/
theorem turn (h : posStep op false pos d = (d₁, some pos₁)) (h₁ : Performs op pos₁ d₁ r next) :
    Performs op pos d r next := by
  cases r with
  | error d₂ => exact .turn h h₁
  | ok d₂ => exact fun d' hd' => .turn h (h₁ d' hd')

/-- The turn in which the body raises. -/
theorem raised (h : posStep op false pos d = (d₁, none)) : Performs op pos d (.error d₁) next :=
  RunsTo.turn h (.ended d₁)

/-- The last turn of a body. -/
theorem last (h : posStep op false pos d = (d₁, next d₁)) : Performs op pos d (.ok d₁) next :=
  fun _ hd' => .turn h hd'

/-- One body after another (R153). -/
theorem bodyThen {a b : Body} {pos' : Datapath → Pos} {d₀ : Datapath} (h : bodyThen a b d₀ = r)
    (ha : Performs op pos d (a d₀) fun d => some (pos' d))
    (hb : ∀ d₁, a d₀ = .ok d₁ → Performs op (pos' d₁) d₁ (b d₁) next) : Performs op pos d r next := by
  subst h
  simp only [Machine.bodyThen]
  cases e : a d₀ with
  | error d₁ => rw [e] at ha; exact ha
  | ok d₁ =>
    rw [e] at ha
    have hb := hb d₁ e
    change Performs op pos d (b d₁) next
    cases e' : b d₁ with
    | error d₂ => rw [e'] at hb; exact ha d₂ hb
    | ok d₂ => rw [e'] at hb; exact fun d' hd' => ha d' (hb d' hd')

/-- A body that is the command's last. -/
theorem runsTo (h : Performs op pos d r fun _ => none) : RunsTo op (some pos) d (bodyEnd r) := by
  cases r with
  | error d₁ => exact h
  | ok d₁ => exact h d₁ (.ended d₁)

end Performs

/-! ## UNPACK -/

/-- A turn of the byte loop does not change how many bytes the row has. -/
theorem unpackByte_pixelBytes {race : Bool} {j : Nat} {d d₁ : Datapath} (h : unpackByte race j d = .ok d₁) :
    pixelBytes d₁ = pixelBytes d := by
  rcases unpackByte_cases race j d with ⟨-, e⟩ | ⟨-, b, n, -, -, e⟩
  · rw [e] at h; cases h
  · obtain ⟨sl, hsl⟩ := storeByte_frame j b
      { d with pixReads := d.pixReads ++ [d.rowaddr + BitVec.ofNat 32 j], draws := n }
    rw [e, hsl] at h
    cases h
    rfl

/-- The byte loop, with at least one byte to go (R103). -/
theorem performs_unpackLoop (op : Op) : ∀ (rem j : Nat) (d : Datapath), j + rem + 1 = pixelBytes d →
    Performs op (.byte j) d (unpackLoop (rem + 1) j d) fun _ => afterPhase op (.skip 0)
  | rem, j, d, hj => by
    simp only [unpackLoop]
    cases e : unpackByte false j d with
    | error d₁ => exact .raised (by simp only [posStep, e])
    | ok d₁ =>
      have hbytes := unpackByte_pixelBytes e
      cases rem with
      | zero => exact .last (by simp only [posStep, e, if_neg (show ¬ j + 1 < pixelBytes d₁ by omega)])
      | succ rem =>
        exact .turn (by simp only [posStep, e, if_pos (show j + 1 < pixelBytes d₁ by omega)])
          (performs_unpackLoop op rem (j + 1) d₁ (by omega))

/-- UNPACK's phase, once its check has passed (R103). -/
theorem performs_unpack (op : Op) {d : Datapath} (h : imageOk d = true) :
    Performs op (.byte 0) (selectRow d) (unpackBody d) fun _ => afterPhase op (.skip 0) := by
  have hpos := pixelBytes_pos h
  have hloop := performs_unpackLoop op (pixelBytes d - 1) 0 (selectRow d)
  rw [Nat.sub_add_cancel hpos] at hloop
  simp only [unpackBody, h, if_true]
  exact hloop (by rw [show pixelBytes (selectRow d) = pixelBytes d from rfl]; omega)

/-! ## MEASURE -/

/-- The margin skip (R111, R112). -/
theorem performs_skipLoop {op : Op} {r : Except Datapath Datapath} {next : Datapath → Option Pos} :
    ∀ (rem p : Nat) (d : Datapath), p + rem = scanWidth d →
      Performs op (.count (skipLoop rem p d).1 (firstDark (skipLoop rem p d).1 (skipLoop rem p d).2))
        (skipLoop rem p d).2 r next →
      Performs op (.skip p) d r next
  | 0, p, d, hp, h => by
    have hend : ¬ p < scanWidth d := by omega
    have hdark : firstDark p d = 0 := if_neg hend
    refine .turn ?_ h
    simp only [posStep, if_neg hend, skipLoop, hdark]
  | rem + 1, p, d, hp, h => by
    have hlt : p < scanWidth d := by omega
    obtain ⟨n, -, -, e⟩ := readCell_frame p d
    simp only [skipLoop] at h
    rcases hr : readCell p d with ⟨_ | _, d'⟩
    · obtain rfl : d' = { d with draws := n } := by rw [← e, hr]
      rw [hr] at h
      have hdark : firstDark p { d with draws := n } = 1 := if_pos hlt
      simp only [hdark] at h
      exact .turn (by simp only [posStep, if_pos hlt, hr]) h
    · obtain rfl : d' = { d with draws := n } := by rw [← e, hr]
      rw [hr] at h
      have hp' : p + 1 + rem = scanWidth { d with draws := n } := by
        rw [show scanWidth { d with draws := n } = scanWidth d from rfl]; omega
      exact .turn (by simp only [posStep, if_pos hlt, hr]) (performs_skipLoop rem (p + 1) _ hp' h)

/-- The width count, and MEASURE's last lines (R111, R112, R113). -/
theorem performs_countLoop {op : Op} : ∀ (rem p n : Nat) (d : Datapath), p + n + rem = scanWidth d →
    Performs op (.count p n) d (.ok (endMeasure p (countLoop rem p n d).1 (countLoop rem p n d).2))
      fun d => afterPhase op (startSampling d)
  | 0, p, n, d, h => .last (by simp only [posStep, countLoop, if_neg (show ¬ p + n < scanWidth d by omega)])
  | rem + 1, p, n, d, h => by
    have hlt : p + n < scanWidth d := by omega
    obtain ⟨m, -, -, e⟩ := readCell_frame (p + n) d
    simp only [countLoop]
    rcases hr : readCell (p + n) d with ⟨_ | _, d'⟩
    · obtain rfl : d' = { d with draws := m } := by rw [← e, hr]
      have hn : p + (n + 1) + rem = scanWidth { d with draws := m } := by
        rw [show scanWidth { d with draws := m } = scanWidth d from rfl]; omega
      exact .turn (by simp only [posStep, if_pos hlt, hr]) (performs_countLoop rem p (n + 1) _ hn)
    · exact .last (by simp only [posStep, if_pos hlt, hr])

/-- MEASURE's phase, once its check has passed (R112). -/
theorem performs_measure (op : Op) {d : Datapath} (h : widthOk d = true) :
    Performs op (.skip 0) d (measureBody d) fun d => afterPhase op (startSampling d) := by
  simp only [measureBody, h, if_true]
  obtain ⟨⟨-, hle⟩, n, -, -, e⟩ := skipLoop_frame (scanWidth d) 0 d
  refine performs_skipLoop (scanWidth d) 0 d (Nat.zero_add _) (performs_countLoop _ _ _ _ ?_)
  have hw : scanWidth (skipLoop (scanWidth d) 0 d).2 = scanWidth d := by rw [e]; rfl
  simp only [firstDark, hw]
  split <;> omega

/-! ## The sampler -/

/-- The steps of one evaluation of `Classify` from a stage of it: the colour, and the datapath after them
(R115). -/
inductive VoteRuns (buf bw off : Nat) : Vote → Datapath → Colour → Datapath → Prop
  | decided {v : Vote} {d d' : Datapath} {c : Colour} (h : voteStep buf bw off v d = (.inr c, d')) :
      VoteRuns buf bw off v d c d'
  | goOn {v v' : Vote} {d d₁ d' : Datapath} {c : Colour} (h : voteStep buf bw off v d = (.inl v', d₁))
      (rest : VoteRuns buf bw off v' d₁ c d') : VoteRuns buf bw off v d c d'

/-- The vote, with at least one window pixel to go (R115). -/
theorem voteRuns_window {buf bw off : Nat} : ∀ (rem k darks lights : Nat) (d : Datapath), k + rem + 1 = bw →
    VoteRuns buf bw off (.window k darks lights) d (voteLoop buf bw off (rem + 1) k darks lights d).1
      (voteLoop buf bw off (rem + 1) k darks lights d).2
  | rem, k, darks, lights, d, hk => by
    simp only [voteLoop]
    rcases e : voteTurn buf bw off k darks lights d with ⟨c | ⟨x, y⟩, d'⟩
    · exact .decided (by simp only [voteStep, e])
    · cases rem with
      | zero => exact .decided (by simp only [voteStep, e, voteLoop, if_neg (show ¬ k + 1 < bw by omega)])
      | succ rem =>
        exact .goOn (by simp only [voteStep, e, if_pos (show k + 1 < bw by omega)])
          (voteRuns_window rem (k + 1) x y d' (by omega))

/-- `Classify` whole (R115). -/
theorem voteRuns_classifySpan (buf bw off : Nat) (d : Datapath) :
    VoteRuns buf bw off .first d (classifySpan buf bw off d).1 (classifySpan buf bw off d).2 := by
  refine .goOn (v' := .far (slRead buf d).1) (d₁ := (slRead buf d).2) rfl ?_
  simp only [classifySpan]
  by_cases hab : (slRead buf d).1 = (slRead (farIndex buf bw off) (slRead buf d).2).1
  · rw [if_pos hab]
    exact .decided (by simp only [voteStep, if_pos hab])
  · rw [if_neg hab]
    cases bw with
    | zero => exact .decided (by simp only [voteStep, if_neg hab, if_true, voteLoop])
    | succ bw =>
      exact .goOn (by simp only [voteStep, if_neg hab, Nat.succ_ne_zero, if_false])
        (voteRuns_window bw 0 0 0 _ (by omega))

/-- The steps of `Classify` are sampler reads (R110). -/
theorem VoteRuns.frame {buf bw off : Nat} {v : Vote} {d d' : Datapath} {c : Colour}
    (h : VoteRuns buf bw off v d c d') :
    ∃ o n, (d.status.oob = true → o = true) ∧ d.draws ≤ n ∧
      d' = { d with status := { d.status with oob := o }, draws := n } := by
  induction h with
  | @decided v d d' c h => simpa [h] using voteStep_frame buf bw off v d
  | @goOn v v' d d₁ d' c h _ ih => exact sampler_trans (by simpa [h] using voteStep_frame buf bw off v d) ih

/-- A step of `Classify` leaves the registers that it reads alone (R115). -/
theorem voteStep_registers {buf bw off : Nat} {v : Vote} {d d₁ : Datapath} {x : Vote ⊕ Colour}
    (h : voteStep buf bw off v d = (x, d₁)) :
    d₁.cursor = d.cursor ∧ d₁.modw = d.modw ∧ d₁.offset = d.offset := by
  obtain ⟨o, n, -, -, e⟩ := voteStep_frame buf bw off v d
  obtain rfl : d₁ = { d with status := { d.status with oob := o }, draws := n } := by rw [← e, h]
  exact ⟨rfl, rfl, rfl⟩

/-- The turns of CLASSIFY are the steps of `Classify` (R117). -/
theorem performs_span {buf bw off : Nat} {v : Vote} {d d' : Datapath} {c : Colour}
    (h : VoteRuns buf bw off v d c d') (hbuf : d.cursor.toNat = buf) (hbw : d.modw.toNat = bw)
    (hoff : d.offset.toNat = off) :
    Performs .classify (.span v) d (.ok (endClassify c d')) fun _ => none := by
  induction h with
  | decided h => exact .last (by simp only [posStep, hbuf, hbw, hoff, h])
  | @goOn v v' d d₁ d' c h _ ih =>
    obtain ⟨hc, hm, ho⟩ := voteStep_registers h
    exact .turn (by simp only [posStep, hbuf, hbw, hoff, h]) (ih (by rwa [hc]) (by rwa [hm]) (by rwa [ho]))

/-- CLASSIFY, once its check has passed (R117). -/
theorem performs_classify {d : Datapath} (h : widthOk d = true) :
    Performs .classify (.span .first) d (classifyBody d) fun _ => none := by
  simp only [classifyBody, h, if_true]
  exact performs_span (voteRuns_classifySpan _ _ _ d) rfl rfl rfl

/-! ## ASSEMBLE -/

/-- The end of segment `k` in a turn of ASSEMBLE, its code `acc` complete and the cursor at `c` (R126). -/
def segmentEnd (op : Op) (k : Fin 11) (acc : Code) (c : Word) (d : Datapath) : Datapath × Option Pos :=
  match nextSegment k with
  | some k' => (setCode k acc d, some (.sample k' 0 0 c .first))
  | none => ({ setCode k acc d with cursor := c }, afterPhase op (.check 0 []))

/-- The end of a module in a turn of ASSEMBLE (R126). -/
def moduleEnd (op : Op) (k : Fin 11) (m : Nat) (acc : Code) (c : Word) (d : Datapath) : Datapath × Option Pos :=
  if m + 1 < segLen k then (d, some (.sample k (m + 1) acc c .first)) else segmentEnd op k acc c d

/-- A turn of ASSEMBLE that goes on with the same module. -/
theorem posStep_sample_inl {op : Op} {k : Fin 11} {m : Nat} {acc : Code} {c : Word} {v v' : Vote}
    {d d₁ : Datapath} (h : voteStep c.toNat d.modw.toNat d.offset.toNat v d = (.inl v', d₁)) :
    posStep op false (.sample k m acc c v) d = (d₁, some (.sample k m acc c v')) := by
  simp only [posStep, h]

/-- A turn of ASSEMBLE that ends a module (R126). -/
theorem posStep_sample_inr {op : Op} {k : Fin 11} {m : Nat} {acc : Code} {c : Word} {v : Vote} {x : Colour}
    {d d₁ : Datapath} (h : voteStep c.toNat d.modw.toNat d.offset.toNat v d = (.inr x, d₁)) :
    posStep op false (.sample k m acc c v) d = moduleEnd op k m (shiftIn acc x) (c + d₁.modw) d₁ := by
  by_cases hlt : m + 1 < segLen k
  · simp only [posStep, h, moduleEnd, if_pos hlt]
  · cases hk : nextSegment k <;> simp only [posStep, h, moduleEnd, segmentEnd, if_neg hlt, hk]

/-- The turns of one module of ASSEMBLE (R126). -/
theorem runsTo_module {op : Op} {k : Fin 11} {m : Nat} {acc : Code} {c : Word} {bw off : Nat} {v : Vote}
    {x : Colour} {d d₁ d' : Datapath} (h : VoteRuns c.toNat bw off v d x d₁) (hbw : d.modw.toNat = bw)
    (hoff : d.offset.toNat = off)
    (rest : RunsTo op (moduleEnd op k m (shiftIn acc x) (c + d.modw) d₁).2
      (moduleEnd op k m (shiftIn acc x) (c + d.modw) d₁).1 d') :
    RunsTo op (some (.sample k m acc c v)) d d' := by
  induction h with
  | @decided v d d₁ x h =>
    obtain ⟨-, hm, -⟩ := voteStep_registers h
    subst hbw hoff
    exact .turn (by rw [posStep_sample_inr h, hm]) rest
  | @goOn v v' d d₂ d₁ x h _ ih =>
    obtain ⟨-, hm, ho⟩ := voteStep_registers h
    subst hbw hoff
    exact .turn (posStep_sample_inl h) (ih (by rw [hm]) (by rw [ho]) (by rwa [hm]))

/-- The turns of the modules of segment `k` from module `m` on, at least one (R126). -/
theorem runsTo_modules {op : Op} {k : Fin 11} {d' : Datapath} : ∀ (rem m : Nat) (acc : Code) (c : Word)
    (d : Datapath), m + rem + 1 = segLen k →
    RunsTo op
      (segmentEnd op k (sampleModules d.modw d.offset.toNat (rem + 1) acc c d).1.1
        (sampleModules d.modw d.offset.toNat (rem + 1) acc c d).1.2
        (sampleModules d.modw d.offset.toNat (rem + 1) acc c d).2).2
      (segmentEnd op k (sampleModules d.modw d.offset.toNat (rem + 1) acc c d).1.1
        (sampleModules d.modw d.offset.toNat (rem + 1) acc c d).1.2
        (sampleModules d.modw d.offset.toNat (rem + 1) acc c d).2).1 d' →
    RunsTo op (some (.sample k m acc c .first)) d d'
  | rem, m, acc, c, d, hm, h => by
    have hvote := voteRuns_classifySpan c.toNat d.modw.toNat d.offset.toNat d
    obtain ⟨o, n, -, -, e⟩ := hvote.frame
    refine runsTo_module hvote rfl rfl ?_
    simp only [sampleModules] at h
    cases rem with
    | zero =>
      simp only [moduleEnd, if_neg (show ¬ m + 1 < segLen k by omega)]
      exact h
    | succ rem =>
      simp only [moduleEnd, if_pos (show m + 1 < segLen k by omega)]
      refine runsTo_modules rem (m + 1) _ _ _ (by omega) ?_
      rw [show (classifySpan c.toNat d.modw.toNat d.offset.toNat d).2.modw = d.modw by rw [e],
        show (classifySpan c.toNat d.modw.toNat d.offset.toNat d).2.offset = d.offset by rw [e]]
      exact h

/-- The segments, or codes, from one of them on (R125). -/
def segmentsFrom : Option (Fin 11) → List (Fin 11)
  | none => []
  | some k => segments.drop k.val

/-- The list of the segments and the step from one to the next agree (R125). -/
theorem segmentsFrom_some : ∀ k : Fin 11, segmentsFrom (some k) = k :: segmentsFrom (nextSegment k) := by decide

/-- No segment follows the last one (R125). -/
theorem eq_none_of_segmentsFrom {o : Option (Fin 11)} (h : segmentsFrom o = []) : o = none := by
  cases o with
  | none => rfl
  | some k => rw [segmentsFrom_some] at h; cases h

/-- The first of the segments that follow is the next one (R125). -/
theorem eq_some_of_segmentsFrom {o : Option (Fin 11)} {k : Fin 11} {ks : List (Fin 11)}
    (h : segmentsFrom o = k :: ks) : o = some k ∧ segmentsFrom (nextSegment k) = ks := by
  cases o with
  | none => cases h
  | some k' =>
    rw [segmentsFrom_some] at h
    cases h
    exact ⟨rfl, rfl⟩

/-- The modules of a segment leave the registers that the sampler reads alone (R126). -/
theorem sampleModules_registers (bw : Word) (off m : Nat) (acc : Code) (c : Word) (d : Datapath) :
    (sampleModules bw off m acc c d).2.modw = d.modw ∧ (sampleModules bw off m acc c d).2.offset = d.offset := by
  obtain ⟨-, o, n, -, -, e⟩ := sampleModules_frame bw off m acc c d
  rw [e]
  exact ⟨rfl, rfl⟩

/-- The turns of ASSEMBLE from segment `k` on (R126). -/
theorem runsTo_segments {op : Op} {d' : Datapath} : ∀ (ks : List (Fin 11)) (k : Fin 11) (c : Word) (d : Datapath),
    segmentsFrom (nextSegment k) = ks →
    RunsTo op (afterPhase op (.check 0 []))
      { (sampleSegments d.modw d.offset.toNat (k :: ks) c d).2 with
        cursor := (sampleSegments d.modw d.offset.toNat (k :: ks) c d).1 } d' →
    RunsTo op (some (.sample k 0 0 c .first)) d d' := by
  intro ks
  induction ks with
  | nil =>
    intro k c d hks h
    refine runsTo_modules (segLen k - 1) 0 0 c d (by have := segLen_pos k; omega) ?_
    rw [Nat.sub_add_cancel (segLen_pos k)]
    simp only [segmentEnd, eq_none_of_segmentsFrom hks]
    exact h
  | cons k' ks ih =>
    intro k c d hks h
    obtain ⟨hk, hks'⟩ := eq_some_of_segmentsFrom hks
    obtain ⟨hm, ho⟩ := sampleModules_registers d.modw d.offset.toNat (segLen k) 0 c d
    refine runsTo_modules (segLen k - 1) 0 0 c d (by have := segLen_pos k; omega) ?_
    rw [Nat.sub_add_cancel (segLen_pos k)]
    simp only [segmentEnd, hk]
    exact ih k' _ _ hks' (by rw [setCode_modw, setCode_offset, hm, ho]; exact h)

/-- ASSEMBLE's phase, once its check has passed (R126). -/
theorem performs_assemble (op : Op) {d : Datapath} (h : widthOk d = true) :
    Performs op (startSampling d) d (assembleBody d) fun _ => afterPhase op (.check 0 []) := by
  have hsegments : segments = 0 :: segmentsFrom (nextSegment 0) := by decide
  simp only [assembleBody, h, if_true, hsegments]
  exact fun d' hd' => runsTo_segments (segmentsFrom (nextSegment 0)) 0 d.cursor d rfl hd'

/-! ## TRANSLATE -/

/-- The checks from code `k` on (R140, R142). -/
theorem runsTo_checks {op : Op} {d : Datapath} : ∀ (ks : List (Fin 11)) (k : Fin 11) (found : List (Fin 10)),
    segmentsFrom (nextSegment k) = ks →
    RunsTo op (some (.check k found)) d (translateLoop (k :: ks) found d) := by
  intro ks
  induction ks with
  | nil =>
    intro k found hks
    have hk := eq_none_of_segmentsFrom hks
    cases hv : checkCode k d.codes[k] <;>
      exact .turn (by simp only [posStep, translateLoop, hv, hk]) (.ended _)
  | cons k' ks ih =>
    intro k found hks
    obtain ⟨hk, hks'⟩ := eq_some_of_segmentsFrom hks
    rw [translateLoop]
    cases hv : checkCode k d.codes[k] with
    | fail r => exact .turn (by simp only [posStep, hv]) (.ended _)
    | pass => exact .turn (by simp only [posStep, hv, hk]) (ih k' found hks')
    | digit x => exact .turn (by simp only [posStep, hv, hk]) (ih k' (found ++ [x]) hks')

/-- TRANSLATE, alone or as RUN's last phase (R140). -/
theorem performs_translate (op : Op) (d : Datapath) :
    Performs op (.check 0 []) d (translateBody d) fun _ => none := by
  intro d' hd'
  cases hd'
  exact runsTo_checks _ 0 [] rfl

/-! ## The commands -/

/-- UNPACK leaves the width check as it was: RUN's MEASURE passes it (R153). -/
theorem unpackBody_widthOk {d d₁ : Datapath} (hi : imageOk d = true) (h : unpackBody d = .ok d₁) :
    widthOk d₁ = true := by
  simp only [unpackBody, hi, if_true] at h
  obtain ⟨sl, reads, n, -, e | e⟩ := unpackLoop_frame (pixelBytes d) 0 (selectRow d)
  · rw [e] at h
    cases h
    exact widthOk_of_imageOk hi
  · rw [e] at h
    cases h

/-- MEASURE leaves the width check as it was: RUN's ASSEMBLE passes it (R153). -/
theorem measureBody_widthOk {d d₁ : Datapath} (hw : widthOk d = true) (h : measureBody d = .ok d₁) :
    widthOk d₁ = true := by
  simp only [measureBody, hw, if_true, Except.ok.injEq] at h
  obtain ⟨-, n, -, -, skip⟩ := skipLoop_frame (scanWidth d) 0 d
  generalize (skipLoop (scanWidth d) 0 d).1 = p at h
  generalize (skipLoop (scanWidth d) 0 d).2 = d₂ at h skip
  obtain ⟨-, m, -, -, count⟩ := countLoop_frame (scanWidth d₂ - p - firstDark p d₂) p (firstDark p d₂) d₂
  generalize (countLoop (scanWidth d₂ - p - firstDark p d₂) p (firstDark p d₂) d₂).2 = d₃ at h count
  subst skip count h
  exact hw

/-- RUN's four phases, once its check has passed (R153, R154). -/
theorem performs_run {d : Datapath} (h : imageOk d = true) :
    Performs .run (.byte 0) (selectRow d) (runBody d) fun _ => none := by
  have unpack : Performs .run (.byte 0) (selectRow d) (unpackBody d) fun _ => some (.skip 0) :=
    performs_unpack .run h
  have measure (d₁ : Datapath) (hw : widthOk d₁ = true) :
      Performs .run (.skip 0) d₁ (measureBody d₁) fun d => some (startSampling d) := performs_measure .run hw
  have assemble (d₂ : Datapath) (hw : widthOk d₂ = true) :
      Performs .run (startSampling d₂) d₂ (assembleBody d₂) fun _ => some (.check 0 []) :=
    performs_assemble .run hw
  refine Performs.bodyThen rfl unpack fun d₁ h₁ => ?_
  have hw₁ := unpackBody_widthOk h h₁
  refine Performs.bodyThen rfl (measure d₁ hw₁) fun d₂ h₂ => ?_
  refine Performs.bodyThen rfl (assemble d₂ (measureBody_widthOk hw₁ h₂)) fun d₃ _ => ?_
  exact performs_translate .run d₃

/-- The first turn of a command with a configuration check (R161). -/
theorem performs_checked {op : Op} {c : Bool} {d d₁ : Datapath} {pos : Pos} {r : Except Datapath Datapath}
    {next : Datapath → Option Pos}
    (hstart : startStep op d = if c then (d₁, some pos) else (bodyEnd (raise .cfgError d), none))
    (hraise : c = false → r = raise .cfgError d) (hpass : c = true → Performs op pos d₁ r next) :
    Performs op .start d r next := by
  cases c with
  | false => rw [hraise rfl]; exact .raised hstart
  | true => exact .turn hstart (hpass rfl)

/-- From acceptance on, the turns of each command do what its body does (R150, R151). -/
theorem performs_body (op : Op) (d : Datapath) : Performs op .start d (op.body d) fun _ => none := by
  cases op with
  | unpack => exact performs_checked rfl (fun h => by simp [Op.body, unpackBody, h]) (performs_unpack .unpack)
  | measure => exact performs_checked rfl (fun h => by simp [Op.body, measureBody, h]) (performs_measure .measure)
  | classify => exact performs_checked rfl (fun h => by simp [Op.body, classifyBody, h]) performs_classify
  | assemble => exact performs_checked rfl (fun h => by simp [Op.body, assembleBody, h]) (performs_assemble .assemble)
  | translate => exact .turn rfl (performs_translate .translate d)
  | run =>
    exact performs_checked rfl (fun h => by simp [Op.body, runBody, bodyThen, unpackBody, h, raise]) performs_run

/-- The turns of the block from acceptance of `op` to the end of its body leave what the body leaves. -/
theorem runsTo_body (op : Op) (d : Datapath) : RunsTo op (some .start) d (bodyEnd (op.body d)) :=
  (performs_body op d).runsTo

/-- What every turn keeps holds from `d` to the end of the body: the block's turns carry `TurnEffect` to the
whole command. -/
theorem RunsTo.effect {op : Op} {next : Option Pos} {d d' : Datapath} (h : RunsTo op next d d')
    (hpos : ∀ pos, next = some pos → posOk op pos d = true) : TurnEffect op d d' := by
  induction h with
  | ended d => exact .refl op d
  | @turn pos next d d₁ d' h _ ih =>
    have turn := posStep_ok (race := false) (hpos pos rfl)
    rw [h] at turn
    exact turn.effect.trans (ih turn.next)

/-- What a whole command may do before `finish()` (R28, R45). -/
theorem body_effect (op : Op) (d : Datapath) : TurnEffect op d (bodyEnd (op.body d)) :=
  (runsTo_body op d).effect fun pos h => by cases h; exact posOk_start

end Sys2Proof.Machine
end

section
/-! PROOF. The block's steps reach what a command's meaning gives at once (R22, R46, R150), and every step keeps
the machine's invariant. -/

namespace Sys2Proof.Machine

/-! ## The meaning of a command word -/

/-- The meaning of a command with a busy period is its body, accepted and finished (R151). -/
theorem exec_instr (op : Op) (s : State) : exec op.instr s = command op op.body s := by
  cases op <;> rfl

/-- A command that an undisturbed idle block takes runs whole (R150, R151). -/
theorem exec_instr_ready {s : State} (op : Op) (h : Ready s) :
    exec op.instr s =
      .next { s with dp := finishFlags {} (bodyEnd (op.body (acceptFlags s.dp))), seq := .idle } := by
  rw [exec_instr, command_ready h.1 h.2]

/-! ## The block's step -/

/-- A turn after which the command goes on. -/
theorem blockStep_goOn {s : State} {op : Op} {pos pos' : Pos} {hz : Hazard} {d : Datapath}
    (hs : s.seq = .busy op pos hz) (h : posStep op hz.pixRace pos s.dp = (d, some pos')) :
    blockStep s = { s with dp := d, seq := .busy op pos' hz } := by
  simp only [blockStep, hs, h]

/-- The last turn of a command, and `finish()` (R150). -/
theorem blockStep_last {s : State} {op : Op} {pos : Pos} {hz : Hazard} {d : Datapath}
    (hs : s.seq = .busy op pos hz) (h : posStep op hz.pixRace pos s.dp = (d, none)) :
    blockStep s = { s with dp := finishFlags hz.raced d, seq := .idle } := by
  simp only [blockStep, hs, h]

/-- A busy block that no act of the host disturbs takes its own step. -/
theorem step_busy_undisturbed {s : State} {op : Op} {pos : Pos} {hz : Hazard} (hs : s.seq = .busy op pos hz)
    (hu : undisturbed s = true) : step s = .next (blockStep s) := by
  cases hh : s.host with
  | nil => exact step_of_state (takeTurn_busy_nil hs hh)
  | cons t rest =>
    obtain ⟨m, a⟩ := t
    cases m with
    | whenIdle => exact step_of_state (takeTurn_busy_whenIdle hs hh)
    | after n => simp [undisturbed, hh] at hu

/-! ## Reaching -/

theorem Reaches.refl (s : State) : Reaches 0 s s := rfl

/-- One step before the others. -/
theorem Reaches.head {n : Nat} {s t u : State} (h : step s = .next t) (h' : Reaches n t u) :
    Reaches (n + 1) s u := by
  have hstep : Sys2Proof.core.step s = .next t := h
  simpa only [Reaches, Host.Core.run, hstep] using h'

/-- The turns of the block are steps of the machine, where no act of the host disturbs them. -/
theorem RunsTo.reaches {op : Op} {next : Option Pos} {d d' : Datapath} (h : RunsTo op next d d') {s : State}
    (hu : undisturbed s = true) : ∀ pos, next = some pos →
      ∃ n, Reaches n { s with dp := d, seq := .busy op pos {} } { s with dp := finishFlags {} d', seq := .idle } := by
  induction h with
  | ended d => intro pos hpos; cases hpos
  | @turn pos next d d₁ d' h rest ih =>
    intro _ hpos
    cases hpos
    have hstep := step_busy_undisturbed (s := { s with dp := d, seq := .busy op pos {} }) rfl hu
    cases next with
    | none =>
      cases rest
      have last : blockStep { s with dp := d, seq := .busy op pos {} } =
          { s with dp := finishFlags {} d₁, seq := .idle } := blockStep_last (hz := {}) rfl h
      rw [last] at hstep
      exact ⟨1, Reaches.head hstep (Reaches.refl _)⟩
    | some pos' =>
      have goOn : blockStep { s with dp := d, seq := .busy op pos {} } =
          { s with dp := d₁, seq := .busy op pos' {} } := blockStep_goOn (hz := {}) rfl h
      rw [goOn] at hstep
      obtain ⟨n, hn⟩ := ih pos' rfl
      exact ⟨n + 1, Reaches.head hstep hn⟩

/-- From acceptance, the block's own steps reach the state that the command's meaning gives at once. -/
theorem accept_reaches_exec {s : State} (op : Op) (h : Ready s) :
    ∃ n t, exec op.instr s = .next t ∧ Reaches n (accept op s) t := by
  obtain ⟨n, hn⟩ := (runsTo_body op (acceptFlags s.dp)).reaches h.2 .start rfl
  exact ⟨n, _, exec_instr_ready op h, hn⟩

/-! ## The invariant -/

theorem Inv.stored {s : State} (h : Inv s) : Stored s.dp := ⟨h.mem, h.sl, h.digits⟩

theorem Stored.inv {s : State} (h : Stored s.dp) (hseq : seqOk s = true) : Inv s := ⟨h.mem, h.sl, h.digits, hseq⟩

/-- In an idle block the invariant is about the stored data alone. -/
theorem Stored.inv_idle {s : State} (h : Stored s.dp) (hs : s.seq = .idle) : Inv s :=
  h.inv (by simp [seqOk, hs])

/-- The invariant does not speak of the host's acts and of the port's answer. -/
theorem Inv.congr {s t : State} (h : Inv s) (hdp : t.dp = s.dp) (hseq : t.seq = s.seq) : Inv t := by
  obtain ⟨mem, sl, digits, seq⟩ := h
  refine ⟨by rwa [hdp], by rwa [hdp], by rwa [hdp], ?_⟩
  simpa only [seqOk, hdp, hseq] using seq

/-- What the invariant says of a busy period. -/
theorem seqOk_busy {s : State} {op : Op} {pos : Pos} {hz : Hazard} (hs : s.seq = .busy op pos hz) :
    seqOk s = true ↔ posOk op pos s.dp = true ∧ s.dp.status.done = false ∧
      hz.raced.inter (mayWriteStatus op) = hz.raced ∧ (hz.pixRace = true → op = .unpack ∨ op = .run) := by
  simp only [seqOk, hs, Bool.and_eq_true, Bool.or_eq_true, Bool.not_eq_true', decide_eq_true_eq, and_assoc,
    or_assoc]
  refine and_congr_right fun _ => and_congr_right fun _ => and_congr_right fun _ => ?_
  cases hz.pixRace <;> simp

/-- A change of `STATUS` other than a rise of `DONE`, of the cells, of pixel memory and of the draw counter
leaves a busy period's position in order. -/
theorem Inv.busy_frame {s t : State} {op : Op} {pos : Pos} {hz hz' : Hazard} (h : Inv s)
    (hs : s.seq = .busy op pos hz) (ht : t.seq = .busy op pos hz') (hstored : Stored t.dp)
    (hdp : ∃ (st : Status) (sl : Scanline) (mem : Memory) (n : Nat), st.done = false ∧
      t.dp = { s.dp with status := st, sl := sl, mem := mem, draws := n })
    (hraced : hz'.raced.inter (mayWriteStatus op) = hz'.raced)
    (hrace : hz'.pixRace = true → op = .unpack ∨ op = .run) : Inv t := by
  obtain ⟨hpos, -⟩ := (seqOk_busy hs).1 h.seq
  obtain ⟨st, sl, mem, n, hdone, hdp⟩ := hdp
  refine hstored.inv ((seqOk_busy ht).2 ⟨?_, ?_, hraced, hrace⟩)
  · rw [hdp, posOk_frame]; exact hpos
  · rw [hdp]; exact hdone

/-! ### The block's step -/

/-- `finish()` leaves the stored data alone (R150). -/
theorem Stored.finishFlags {d : Datapath} (h : Stored d) (raced : Status) : Stored (finishFlags raced d) := by
  obtain ⟨done, oob, cfgerr, buserr, n, -, -, -, -, -, e⟩ := finishFlags_frame raced d
  rw [e]
  exact ⟨h.mem, h.sl, h.digits⟩

/-- Acceptance leaves the stored data alone (R151). -/
theorem Stored.acceptFlags {d : Datapath} (h : Stored d) : Stored (acceptFlags d) := ⟨h.mem, h.sl, h.digits⟩

theorem blockStep_inv {s : State} (h : Inv s) : Inv (blockStep s) := by
  cases hs : s.seq with
  | idle =>
    have hidle : blockStep s = s := by simp only [blockStep, hs]
    rwa [hidle]
  | busy op pos hz =>
    obtain ⟨hpos, hdone, hraced, hrace⟩ := (seqOk_busy hs).1 h.seq
    have turn := posStep_ok (race := hz.pixRace) hpos
    rcases e : posStep op hz.pixRace pos s.dp with ⟨d, _ | pos'⟩
    · rw [e] at turn
      rw [blockStep_last hs e]
      exact ((turn.effect.stored h.stored).finishFlags hz.raced).inv_idle rfl
    · rw [e] at turn
      rw [blockStep_goOn hs e]
      exact (turn.effect.stored h.stored).inv
        ((seqOk_busy rfl).2 ⟨turn.next pos' rfl, turn.effect.done.trans hdone, hraced, hrace⟩)

/-! ### Command words -/

/-- A dropped write keeps the invariant (R200 (a)). -/
theorem busyWrite_inv {s : State} (h : Inv s) : Inv (busyWrite s) := by
  have stored : Stored (busyWrite s).dp := ⟨h.mem, h.sl, h.digits⟩
  cases hs : s.seq with
  | idle => exact stored.inv_idle hs
  | busy op pos hz =>
    obtain ⟨-, hdone, hraced, hrace⟩ := (seqOk_busy hs).1 h.seq
    exact h.busy_frame hs hs stored ⟨{ s.dp.status with busywr := true }, _, _, _, hdone, rfl⟩ hraced hrace

/-- A command with a busy period keeps the invariant: its body by the turns of the block. -/
theorem exec_instr_inv {s t : State} (op : Op) (h : Inv s) (ht : exec op.instr s = .next t) : Inv t := by
  rw [exec_instr] at ht
  obtain ⟨u, hu, hcases⟩ := command_cases op op.body s
  rw [hu] at ht
  cases ht
  have accepted : Stored (acceptFlags s.dp) := h.stored.acceptFlags
  rcases hcases with rfl | rfl | rfl
  · exact busyWrite_inv h
  · exact accepted.inv ((seqOk_busy rfl).2 ⟨posOk_start, rfl, by cases op <;> rfl, by simp⟩)
  · exact (((body_effect op _).stored accepted).finishFlags {}).inv_idle rfl

/-- An illegal word keeps the invariant (R90). -/
theorem illegalCommand_inv {s t : State} (h : Inv s) (ht : illegalCommand s = .next t) : Inv t := by
  unfold illegalCommand at ht
  split at ht
  · cases ht; exact busyWrite_inv h
  · next hs =>
    cases ht
    exact Stored.inv_idle ⟨h.mem, h.sl, h.digits⟩ hs

/-- SOFTRESET keeps the invariant (R155). -/
theorem execSoftreset_inv {s t : State} (h : Inv s) (ht : execSoftreset s = .next t) : Inv t := by
  unfold execSoftreset at ht
  split at ht
  · cases ht; exact busyWrite_inv h
  · next hs =>
    cases ht
    exact Stored.inv_idle ⟨h.mem, h.sl, rfl⟩ hs

/-- Every command word keeps the invariant. -/
theorem exec_inv {s t : State} (i : Instr) (h : Inv s) (ht : exec i s = .next t) : Inv t := by
  cases i with
  | unpack => exact exec_instr_inv .unpack h ht
  | measure => exact exec_instr_inv .measure h ht
  | classify => exact exec_instr_inv .classify h ht
  | assemble => exact exec_instr_inv .assemble h ht
  | translate => exact exec_instr_inv .translate h ht
  | run => exact exec_instr_inv .run h ht
  | softreset => exact execSoftreset_inv h ht
  | reservedOp0 => exact illegalCommand_inv h ht
  | reservedOp8F low => exact illegalCommand_inv h ht
  | reservedRsv op rsv => exact illegalCommand_inv h ht

/-! ### The register port -/

/-- A read of a register costs a draw at most (R70, R191). -/
theorem readReg_frame (busy : Bool) (r : Reg) (d : Datapath) :
    ∃ n, d.draws ≤ n ∧ (readReg busy r d).2 = { d with draws := n } := by
  cases r with
  | sl i =>
    obtain ⟨n, hn, -, e⟩ := readCell_frame i d
    exact ⟨n, hn, e⟩
  | _ => exact ⟨d.draws, Nat.le_refl _, rfl⟩

/-- A read of a register leaves the stored data alone (R70). -/
theorem Stored.readReg {d : Datapath} (h : Stored d) (busy : Bool) (r : Reg) : Stored (readReg busy r d).2 := by
  obtain ⟨n, -, e⟩ := readReg_frame busy r d
  rw [e]
  exact ⟨h.mem, h.sl, h.digits⟩

/-- `b` is a draw from `lo` on, before `hi`, where `c` holds, and `v` elsewhere (R15, R200). -/
def DrawnOr (lo hi : Nat) (c v b : Bool) : Prop :=
  if c then ∃ k, lo ≤ k ∧ k < hi ∧ b = Config.freeBit k else b = v

theorem DrawnOr.mono {lo lo' hi hi' : Nat} {c v b : Bool} (h : DrawnOr lo hi c v b) (hlo : lo' ≤ lo)
    (hhi : hi ≤ hi') : DrawnOr lo' hi' c v b := by
  unfold DrawnOr at h ⊢
  split at h
  · next hc =>
    obtain ⟨k, h₁, h₂, hb⟩ := h
    rw [if_pos hc]
    exact ⟨k, by omega, by omega, hb⟩
  · next hc => rwa [if_neg hc]

/-- A draw in place of a value: what is read, and the draw counter after it (R200). -/
theorem drawIf_drawnOr (c v : Bool) (d : Datapath) :
    ∃ b n, drawIf c v d = (b, { d with draws := n }) ∧ d.draws ≤ n ∧ DrawnOr d.draws n c v b := by
  cases c
  · exact ⟨v, d.draws, rfl, Nat.le_refl _, rfl⟩
  · exact ⟨Config.freeBit d.draws, d.draws + 1, rfl, Nat.le_succ _, d.draws, Nat.le_refl _, Nat.lt_succ_self _, rfl⟩

/-- `STATUS` in a busy period: `BUSY` 1, `DONE` 0, and each field that the command may write a draw of this read
(R200 (c)). -/
theorem readStatusBusy_eq (op : Op) (d : Datapath) :
    ∃ oob nobar clsbit cfgerr buserr n,
      readStatusBusy op d =
        (statusWord true { d.status with
          done := false, oob := oob, nobar := nobar, clsbit := clsbit, cfgerr := cfgerr, buserr := buserr },
          { d with draws := n }) ∧
      DrawnOr d.draws n (mayWriteStatus op).oob d.status.oob oob ∧
      DrawnOr d.draws n (mayWriteStatus op).nobar d.status.nobar nobar ∧
      DrawnOr d.draws n (mayWriteStatus op).clsbit d.status.clsbit clsbit ∧
      DrawnOr d.draws n (mayWriteStatus op).cfgerr d.status.cfgerr cfgerr ∧
      DrawnOr d.draws n (mayWriteStatus op).buserr d.status.buserr buserr := by
  obtain ⟨b₁, n₁, e₁, le₁, h₁⟩ := drawIf_drawnOr (mayWriteStatus op).oob d.status.oob d
  obtain ⟨b₂, n₂, e₂, le₂, h₂⟩ := drawIf_drawnOr (mayWriteStatus op).nobar d.status.nobar { d with draws := n₁ }
  obtain ⟨b₃, n₃, e₃, le₃, h₃⟩ := drawIf_drawnOr (mayWriteStatus op).clsbit d.status.clsbit { d with draws := n₂ }
  obtain ⟨b₄, n₄, e₄, le₄, h₄⟩ := drawIf_drawnOr (mayWriteStatus op).cfgerr d.status.cfgerr { d with draws := n₃ }
  obtain ⟨b₅, n₅, e₅, le₅, h₅⟩ := drawIf_drawnOr (mayWriteStatus op).buserr d.status.buserr { d with draws := n₄ }
  simp only at le₂ le₃ le₄ le₅ h₂ h₃ h₄ h₅
  refine ⟨b₁, b₂, b₃, b₄, b₅, n₅, by simp only [readStatusBusy, e₁, e₂, e₃, e₄, e₅],
    h₁.mono ?_ ?_, h₂.mono ?_ ?_, h₃.mono ?_ ?_, h₄.mono ?_ ?_, h₅.mono ?_ ?_⟩ <;> omega

/-- A read in a busy period moves the draw counter at most (R200 (c)). -/
theorem readRegBusy_frame (op : Op) (r : Reg) (d : Datapath) :
    ∃ n, (readRegBusy op r d).2 = { d with draws := n } := by
  unfold readRegBusy
  split
  · obtain ⟨_, _, _, _, _, n, e, -⟩ := readStatusBusy_eq op d
    exact ⟨n, by rw [e]⟩
  · split
    · obtain ⟨n, -, e⟩ := readReg_frame true r d
      exact ⟨n, e⟩
    · exact ⟨d.draws + 1, rfl⟩

/-- A scanline cell of the register map exists (R43). -/
theorem regAt_sl_lt {scanMax : Nat} {off : BitVec 23} {i : Nat} (h : regAt scanMax off = .sl i) : i < scanMax := by
  unfold regAt at h
  simp only at h
  split at h
  · split at h
    · next hlt =>
      cases h
      exact hlt
    · cases h
  · split at h
    · split at h <;> cases h
    · split at h <;> cases h

/-- A host write to a register keeps the stored data in form (R24, R43). -/
theorem Stored.writeReg {d : Datapath} (h : Stored d) (off : BitVec 23) (v : Word) :
    Stored (writeReg (regAt d.scanMax off) v d) := by
  cases hr : regAt d.scanMax off with
  | sl i => exact ⟨h.mem, writeCell_wf (regAt_sl_lt hr) h.sl, h.digits⟩
  | _ => exact ⟨h.mem, h.sl, h.digits⟩

/-- The W1C fields that the running command may write belong to its row, and so do those remembered before. -/
theorem raced_union_inter {op : Op} {raced : Status} (h : raced.inter (mayWriteStatus op) = raced) (c : Status) :
    (raced.union (c.inter (mayWriteStatus op))).inter (mayWriteStatus op) =
      raced.union (c.inter (mayWriteStatus op)) := by
  have absorb (a b w : Bool) (ha : (a && w) = a) : ((a || (b && w)) && w) = (a || (b && w)) := by
    revert a b w; decide
  rw [Status.inter, Status.mk.injEq] at h
  obtain ⟨h₁, h₂, h₃, h₄, h₅, h₆, h₇, h₈⟩ := h
  simp only [Status.inter, Status.union, absorb _ _ _ h₁, absorb _ _ _ h₂, absorb _ _ _ h₃, absorb _ _ _ h₄,
    absorb _ _ _ h₅, absorb _ _ _ h₆, absorb _ _ _ h₇, absorb _ _ _ h₈]

/-- A register access in a busy period keeps the invariant (R67, R200). -/
theorem portBusy_inv {s : State} {op : Op} {pos : Pos} {hz : Hazard} (h : Inv s) (hs : s.seq = .busy op pos hz)
    (off : BitVec 23) (size : Nat) (a : Access) : Inv (portBusy op pos hz off size a s) := by
  obtain ⟨-, hdone, hraced, hrace⟩ := (seqOk_busy hs).1 h.seq
  unfold portBusy
  split
  · cases a with
    | read =>
      obtain ⟨n, e⟩ := readRegBusy_frame op (regAt s.dp.scanMax off) s.dp
      refine h.busy_frame (hz' := hz) hs hs ?_ ⟨s.dp.status, s.dp.sl, s.dp.mem, n, hdone, e⟩ hraced hrace
      simp only [e]
      exact ⟨h.mem, h.sl, h.digits⟩
    | write v =>
      simp only
      split
      · refine h.busy_frame hs rfl ⟨h.mem, h.sl, h.digits⟩
          ⟨w1cWrite v s.dp.status, s.dp.sl, s.dp.mem, s.dp.draws, ?_, rfl⟩ (raced_union_inter hraced _) hrace
        simp [w1cWrite, Status.without, hdone]
      · exact (busyWrite_inv h).congr rfl rfl
  · exact h.congr rfl rfl

/-! ### The host's acts -/

/-- What a turn gives meets the invariant. -/
def TurnInv : TurnResult → Prop
  | .state t => Inv t
  | .command _ t => Inv t
  | .fault _ => True

/-- A register access of an idle block keeps the invariant (R24, R67, R70). -/
theorem portIdle_inv {s : State} (h : Inv s) (hs : s.seq = .idle) (off : BitVec 23) (size : Nat) (a : Access) :
    TurnInv (portIdle off size a s) := by
  unfold portIdle
  split
  · cases a with
    | read =>
      exact (h.stored.readReg false (regAt s.dp.scanMax off)).inv_idle hs
    | write v =>
      simp only
      split
      · exact h.congr rfl rfl
      · exact (h.stored.writeReg off v).inv_idle hs
  · exact h.congr rfl rfl

/-- A register access keeps the invariant (R23 (1)). -/
theorem portAct_inv {s : State} (h : Inv s) (off : BitVec 23) (size : Nat) (a : Access) :
    TurnInv (portAct off size a s) := by
  unfold portAct
  split
  · next hs => exact portIdle_inv h hs off size a
  · next op pos hz hs => exact portBusy_inv h hs off size a

/-- UNPACK, alone or as RUN's first phase, has passed its check before pixel byte `j` unless it has not begun
(R103, R201). -/
theorem unpackAt_eq_some {op : Op} {pos : Pos} {d : Datapath} {j : Nat} (h : unpackAt op pos = some j)
    (hpos : posOk op pos d = true) :
    (op = .unpack ∨ op = .run) ∧ (j = 0 ∨ widthOk d = true) := by
  unfold unpackAt at h
  split at h
  · cases h; exact ⟨.inl rfl, .inl rfl⟩
  · cases h; exact ⟨.inr rfl, .inl rfl⟩
  · obtain ⟨-, hi, -⟩ := posOk_byte.1 hpos
    exact ⟨.inl rfl, .inr (widthOk_of_imageOk hi)⟩
  · obtain ⟨-, hi, -⟩ := posOk_byte.1 hpos
    exact ⟨.inr rfl, .inr (widthOk_of_imageOk hi)⟩
  · cases h

/-- A write of pixel memory keeps the stored data in form (R60, R61). -/
theorem Stored.storePixel {s : State} (h : Stored s.dp) (addr : Word) (b : Byte) :
    Stored (storePixel addr b s).dp := ⟨storePixel_wf h.mem, h.sl, h.digits⟩

/-- A pixel write that does not race UNPACK keeps the invariant (R61). -/
theorem storePixel_inv {s : State} (h : Inv s) (addr : Word) (b : Byte) : Inv (storePixel addr b s) := by
  have stored := h.stored.storePixel addr b
  cases hs : s.seq with
  | idle => exact stored.inv_idle hs
  | busy op pos hz =>
    obtain ⟨-, hdone, hraced, hrace⟩ := (seqOk_busy hs).1 h.seq
    exact h.busy_frame hs hs stored ⟨s.dp.status, s.dp.sl, _, s.dp.draws, hdone, rfl⟩ hraced hrace

/-- The row's cells after a race with pixel byte `i`, UNPACK being at byte `j` (R74 (d), R201). -/
def racedRow (i j : Nat) (d : Datapath) : Datapath :=
  if i < j then storeByte i (Config.freeByte d.draws) { d with draws := d.draws + 1 } else d

/-- All a pixel write can race: nothing, or byte `i` of the row that UNPACK reads (R201). -/
theorem racePixel_cases (op : Op) (pos : Pos) (hz : Hazard) (j : Nat) (addr : Word) (s : State) :
    racePixel op pos hz j addr s = s ∨ ∃ i, racePixel op pos hz j addr s =
      { s with dp := racedRow i j s.dp, seq := .busy op pos { hz with pixRace := true } } := by
  unfold racePixel
  split
  · exact .inl rfl
  · next i _ =>
    refine .inr ⟨i, ?_⟩
    simp only [racedRow, drawByte]
    split <;> rfl

/-- The cells that a race draws again are cells that UNPACK writes (R74 (d)). -/
theorem racedRow_frame {op : Op} {i j : Nat} {d : Datapath} (hop : op = .unpack ∨ op = .run)
    (hw : j = 0 ∨ widthOk d = true) :
    ∃ sl n, racedRow i j d = { d with sl := sl, draws := n } ∧
      (Stored d → Stored { d with sl := sl, draws := n }) := by
  unfold racedRow
  split
  · next hlt =>
    have effect := TurnEffect.storeByte hop (hw.resolve_left (by omega)) i (Config.freeByte d.draws)
      d.pixReads (d.draws + 1)
    obtain ⟨sl, e⟩ := storeByte_frame i (Config.freeByte d.draws) { d with draws := d.draws + 1 }
    rw [e] at effect ⊢
    exact ⟨sl, d.draws + 1, rfl, effect.stored⟩
  · exact ⟨d.sl, d.draws, rfl, id⟩

/-- The race of a pixel write with UNPACK keeps the invariant (R74 (d), R201). -/
theorem racePixel_inv {s : State} {op : Op} {pos : Pos} {hz : Hazard} {j : Nat} (h : Inv s)
    (hs : s.seq = .busy op pos hz) (hj : unpackAt op pos = some j) (addr : Word) :
    Inv (racePixel op pos hz j addr s) := by
  obtain ⟨hpos, hdone, hraced, -⟩ := (seqOk_busy hs).1 h.seq
  obtain ⟨hop, hw⟩ := unpackAt_eq_some hj hpos
  rcases racePixel_cases op pos hz j addr s with e | ⟨i, e⟩
  · rwa [e]
  · obtain ⟨sl, n, hrow, hstored⟩ := racedRow_frame (i := i) hop hw
    rw [e, hrow]
    exact h.busy_frame (hz' := { hz with pixRace := true }) hs rfl (hstored h.stored)
      ⟨s.dp.status, sl, s.dp.mem, n, hdone, rfl⟩ hraced fun _ => hop

/-- A write of pixel memory keeps the invariant (R61, R74 (d), R201). -/
theorem pixelWrite_inv {s : State} (h : Inv s) (addr : Word) (b : Byte) : Inv (pixelWrite addr b s) := by
  unfold pixelWrite
  split
  · exact storePixel_inv h addr b
  · next op pos hz hs =>
    split
    · next j hj => exact racePixel_inv (storePixel_inv h addr b) hs hj addr
    · exact storePixel_inv h addr b

/-- The reset input brings the invariant (R190). -/
theorem resetInput_inv {s : State} (h : Inv s) : Inv (resetInput s) :=
  Stored.inv_idle ⟨h.mem, rfl, rfl⟩ rfl

/-- Every act of the host keeps the invariant. -/
theorem hostAct_inv {s : State} (h : Inv s) (a : HostAct) : TurnInv (hostAct a s) := by
  cases a with
  | port off size acc => exact portAct_inv h off size acc
  | bus addr size acc =>
    simp only [hostAct]
    split
    · exact portAct_inv h _ size acc
    · trivial
  | pixelWrite addr b => exact pixelWrite_inv h addr b
  | resetInput => exact resetInput_inv h

/-- Every turn keeps the invariant. -/
theorem takeTurn_inv {s : State} (h : Inv s) : TurnInv (takeTurn s) := by
  have later (host : List Turn) : Inv { s with host := host } := h.congr rfl rfl
  unfold takeTurn
  split
  · exact h
  · exact hostAct_inv (later _) _
  · exact blockStep_inv h
  · exact blockStep_inv h
  · exact hostAct_inv (later _) _
  · exact blockStep_inv (later _)

/-- Every step keeps the invariant. -/
theorem step_inv {s t : State} (h : Inv s) (ht : step s = .next t) : Inv t := by
  have turn := takeTurn_inv h
  unfold step at ht
  split at ht
  · next e => rw [e] at turn; cases ht; exact turn
  · next e => rw [e] at turn; exact exec_inv _ turn ht
  · cases ht

end Sys2Proof.Machine
end

section
/-! PROOF. What acceptance and `finish()` write; the frame of a whole command, of a block step, and the sticky
flags (R28, R45, R47). -/

namespace Sys2Proof.Machine

/-! ## Acceptance and completion -/

/-- Acceptance writes `DONE`, which every row of R45 lists, and starts the port's trace (R151). -/
theorem acceptFlags_row (op : Op) (d : Datapath) : WritesRow op d (acceptFlags d) :=
  .of_sl_eq (by cases op <;> simp [outsideRow, Status.without, mayWriteStatus, acceptFlags]) rfl

/-- `finish()` writes `DONE` and the fields of the row that the host cleared (R150, R200 (b)). -/
theorem finishFlags_row {op : Op} {raced : Status} (h : raced.inter (mayWriteStatus op) = raced) (d : Datapath) :
    WritesRow op d (finishFlags raced d) := by
  obtain ⟨done, oob, cfgerr, buserr, n, -, -, ho, hc, hb, e⟩ := finishFlags_frame raced d
  rw [Status.inter, Status.mk.injEq] at h
  obtain ⟨-, hoob, -, -, -, hcfgerr, hbuserr, -⟩ := h
  rw [e]
  refine .of_sl_eq ?_ rfl
  cases op <;> simp_all [outsideRow, Status.without, mayWriteStatus]

/-- `finish()` after an undisturbed command (R150). -/
theorem finishFlags_none_row (op : Op) (d : Datapath) : WritesRow op d (finishFlags {} d) :=
  finishFlags_row (by cases op <;> rfl) d

/-- A command that an idle block takes writes nothing its row does not list, and not the port (R45). -/
theorem exec_instr_row {s t : State} {op : Op} (hs : s.seq = .idle) (ht : exec op.instr s = .next t) :
    t.host = s.host ∧ t.resp = s.resp ∧ WritesRow op s.dp t.dp := by
  have accepted := acceptFlags_row op s.dp
  rw [exec_instr] at ht
  cases hu : undisturbed s with
  | true =>
    rw [command_ready hs hu] at ht
    cases ht
    exact ⟨rfl, rfl, (accepted.trans (body_effect op _).row).trans (finishFlags_none_row op _)⟩
  | false =>
    rw [command_disturbed hs hu] at ht
    cases ht
    exact ⟨rfl, rfl, accepted⟩

/-- A step of the block writes nothing its command's row does not list (R45, R150). -/
theorem blockStep_row {s : State} {op : Op} {pos : Pos} {hz : Hazard} (h : Inv s) (hs : s.seq = .busy op pos hz) :
    WritesRow op s.dp (blockStep s).dp := by
  obtain ⟨hpos, -, hraced, -⟩ := (seqOk_busy hs).1 h.seq
  have turn := (posStep_ok (race := hz.pixRace) hpos).effect.row
  rcases e : posStep op hz.pixRace pos s.dp with ⟨d, _ | pos'⟩
  · rw [e] at turn
    rw [blockStep_last hs e]
    exact turn.trans (finishFlags_row hraced d)
  · rw [e] at turn
    rw [blockStep_goOn hs e]
    exact turn

/-! ## Sticky flags -/

/-- No sticky flag that is set in `st` is cleared in `st'` (R28). -/
structure KeepsSticky (st st' : Status) : Prop where
  oob    : st.oob = true → st'.oob = true
  illcmd : st.illcmd = true → st'.illcmd = true
  cfgerr : st.cfgerr = true → st'.cfgerr = true
  buserr : st.buserr = true → st'.buserr = true
  busywr : st.busywr = true → st'.busywr = true

/-- A dropped write only sets `BUSYWR` (R200 (a)). -/
theorem busyWrite_keepsSticky (s : State) : KeepsSticky s.dp.status (busyWrite s).dp.status :=
  ⟨id, id, id, id, fun _ => rfl⟩

/-- An illegal word sets flags alone (R90). -/
theorem illegalCommand_keepsSticky {s t : State} (ht : illegalCommand s = .next t) :
    KeepsSticky s.dp.status t.dp.status := by
  unfold illegalCommand at ht
  split at ht
  · cases ht; exact busyWrite_keepsSticky s
  · cases ht; exact ⟨id, fun _ => rfl, id, id, id⟩

/-- A command clears no sticky flag: not at acceptance, not in its body, not at `finish()` (R28, R207). -/
theorem exec_instr_keepsSticky {s t : State} (op : Op) (ht : exec op.instr s = .next t) :
    KeepsSticky s.dp.status t.dp.status := by
  rw [exec_instr] at ht
  obtain ⟨u, hu, hcases⟩ := command_cases op op.body s
  rw [hu] at ht
  cases ht
  rcases hcases with rfl | rfl | rfl
  · exact busyWrite_keepsSticky s
  · exact ⟨id, id, id, id, id⟩
  · have effect := body_effect op (acceptFlags s.dp)
    exact ⟨effect.oob, fun h => effect.row.illcmd.trans h, effect.cfgerr, effect.buserr,
      fun h => effect.row.busywr.trans h⟩

/-! ## The interrupt -/

/-- Every command that runs whole ends idle with `DONE` 1 and `CTRL` as it was (R47, R150). -/
theorem exec_instr_irq {s t : State} (op : Op) (h : Ready s) (ht : exec op.instr s = .next t) :
    t.seq = .idle ∧ irq t = s.dp.ie := by
  obtain ⟨-, -, row⟩ := exec_instr_row h.1 ht
  rw [exec_instr_ready op h] at ht
  cases ht
  exact ⟨rfl, by rw [irq, row.ie]; exact Bool.and_true _⟩

/-- An illegal word that an idle block takes sets `DONE` at once (R47, R90). -/
theorem illegalCommand_irq {s t : State} (hs : s.seq = .idle) (ht : illegalCommand s = .next t) :
    t.seq = .idle ∧ irq t = s.dp.ie := by
  simp only [illegalCommand, hs] at ht
  cases ht
  exact ⟨rfl, Bool.and_true _⟩

end Sys2Proof.Machine

namespace Sys2Proof.Proofs

open Sys2Proof.Machine

/-- Settles O56: every turn of the host and of the block keeps the invariant, and a command's body is turns of the
block (`runsTo_body`). -/
theorem stepKeepsInvariant : Obligations.StepKeepsInvariant :=
  fun _ _ h ht => step_inv h ht

/-- Settles O8: nothing is stored at reset, and the block is idle. -/
theorem resetMeetsInvariant : Obligations.ResetMeetsInvariant :=
  Stored.inv_idle ⟨reset_mem_wf, reset_sl_wf, rfl⟩ rfl

/-- Settles O58, by induction on the block's turns (`RunsTo.reaches`), which do what the body does
(`performs_body`). -/
theorem blockStepsReachStageMeaning : Obligations.BlockStepsReachStageMeaning :=
  fun _ op _ h => accept_reaches_exec op h

/-- Settles O59, as O58: RUN's turns are those of its four phases (`performs_run`). -/
theorem blockStepsReachRunMeaning : Obligations.BlockStepsReachRunMeaning :=
  fun _ h => accept_reaches_exec .run h

/-- Settles O39: acceptance, the body and `finish()` each write the command's row at most. -/
theorem commandsWriteOnlyTheirRow : Obligations.CommandsWriteOnlyTheirRow := by
  intro s t op hs ht
  obtain ⟨hhost, hresp, row⟩ := exec_instr_row hs ht
  exact ⟨hhost, hresp, row.fields⟩

/-- Settles O40: the turn writes the command's row (`posStep_ok`), and so does `finish()` under the invariant. -/
theorem blockStepsWriteOnlyTheirRow : Obligations.BlockStepsWriteOnlyTheirRow :=
  fun _ _ _ _ h hs => (blockStep_row h hs).fields

/-- Settles O41: acceptance, the body, `finish()` and the dropped write each only set sticky flags. -/
theorem commandsNeverClearStickyFlags : Obligations.CommandsNeverClearStickyFlags := by
  intro s t i hi ht
  have sticky : KeepsSticky s.dp.status t.dp.status := by
    cases i with
    | unpack => exact exec_instr_keepsSticky .unpack ht
    | measure => exact exec_instr_keepsSticky .measure ht
    | classify => exact exec_instr_keepsSticky .classify ht
    | assemble => exact exec_instr_keepsSticky .assemble ht
    | translate => exact exec_instr_keepsSticky .translate ht
    | run => exact exec_instr_keepsSticky .run ht
    | softreset => exact absurd rfl hi
    | reservedOp0 => exact illegalCommand_keepsSticky ht
    | reservedOp8F low => exact illegalCommand_keepsSticky ht
    | reservedRsv op rsv => exact illegalCommand_keepsSticky ht
  exact ⟨sticky.oob, sticky.illcmd, sticky.cfgerr, sticky.buserr, sticky.busywr⟩

end Sys2Proof.Proofs
end

section
/-! PROOF. The register port: the map, a write and the read after it, reads and W1C writes in a busy period, the
interrupt (R24 to R47, R200). -/

namespace Sys2Proof.Machine

/-! ## The register map -/

/-- The offset of a code register as a number (R24). -/
theorem regOffset_code_toNat (k : Fin 11) : (regOffset (.code k)).toNat = 0x040 + 4 * k.val := by
  revert k; decide

/-- The offset of a scanline cell as a number: the window holds every cell below 0x1C_0000 (R24). -/
theorem regOffset_sl_toNat {i : Nat} (hi : i < 0x1C0000) : (regOffset (.sl i)).toNat = 0x100000 + 4 * i := by
  simp only [regOffset, slWindow, BitVec.toNat_ofNat]
  omega

/-- At a scanline offset stands the cell where it exists, and nothing above SCAN_MAX (R43, R44). -/
theorem regAt_sl {scanMax i : Nat} (hi : i < 0x1C0000) :
    regAt scanMax (regOffset (.sl i)) = if i < scanMax then .sl i else .reserved := by
  have hindex : (0x100000 + 4 * i - slWindow) / 4 = i := by simp only [slWindow]; omega
  simp only [regAt, regOffset_sl_toNat hi, hindex]
  rw [if_pos (show slWindow ≤ 0x100000 + 4 * i from Nat.le_add_right _ _)]

/-- At the offset of a code register stands that register (R42). -/
theorem regAt_code (scanMax : Nat) (k : Fin 11) : regAt scanMax (regOffset (.code k)) = .code k := by
  have hk : (0x040 + 4 * k.val - 0x040) / 4 = k.val := by omega
  have hwindow : ¬ slWindow ≤ 0x040 + 4 * k.val := by simp only [slWindow]; omega
  simp only [regAt, regOffset_code_toNat, if_neg hwindow, if_pos (Nat.le_add_right _ _), hk, k.isLt, dif_pos]

/-- The offsets between `SCANCAP` and `CODE0`, and between `CODE10` and the scanline window, are reserved
(R44). -/
theorem regAt_reserved (scanMax : Nat) {off : BitVec 23}
    (h : (0x00003C ≤ off.toNat ∧ off.toNat < 0x000040) ∨ (0x00006C ≤ off.toNat ∧ off.toNat < 0x100000)) :
    regAt scanMax off = .reserved := by
  have hwindow : ¬ slWindow ≤ off.toNat := by simp only [slWindow]; omega
  simp only [regAt, if_neg hwindow]
  rcases h with h | h
  · have hword : off.toNat / 4 = 15 := by omega
    simp only [if_neg (show ¬ 0x040 ≤ off.toNat by omega), hword]
  · rw [if_pos (by omega), dif_neg (by omega)]

/-! ## The turn of a port access -/

/-- An aligned 32-bit access has the right shape (R67). -/
theorem shapeOk_aligned {off : BitVec 23} (h : off.toNat % 4 = 0) : shapeOk off 4 = true := by
  simp [shapeOk, h]

/-- A read on an idle block answers the register's value (R70). -/
theorem step_idle_read {s : State} {m : Moment} {off : BitVec 23} {rest : List Turn} (hs : s.seq = .idle)
    (hoff : off.toNat % 4 = 0) (hh : s.host = ⟨m, .port off 4 .read⟩ :: rest) :
    step s = .next { s with
      dp := (readReg false (regAt s.dp.scanMax off) s.dp).2
      resp := .data (readReg false (regAt s.dp.scanMax off) s.dp).1
      host := rest } := by
  refine step_of_state ((takeTurn_idle hs hh).trans ?_)
  simp only [hostAct, portAct, hs, portIdle, shapeOk_aligned hoff, if_true]

/-- A write on an idle block, but to `CMD`, is stored (R24). -/
theorem step_idle_write {s : State} {m : Moment} {off : BitVec 23} {v : Word} {rest : List Turn}
    (hs : s.seq = .idle) (hoff : off.toNat % 4 = 0) (hcmd : regAt s.dp.scanMax off ≠ .cmd)
    (hh : s.host = ⟨m, .port off 4 (.write v)⟩ :: rest) :
    step s = .next { s with
      dp := writeReg (regAt s.dp.scanMax off) v s.dp, resp := .written, host := rest } := by
  refine step_of_state ((takeTurn_idle hs hh).trans ?_)
  simp only [hostAct, portAct, hs, portIdle, shapeOk_aligned hoff, if_true, if_neg hcmd]

/-- A register access that lands in a busy period (R200). -/
theorem step_busy_port {s : State} {op : Op} {pos : Pos} {hz : Hazard} {off : BitVec 23} {size : Nat} {a : Access}
    {rest : List Turn} (hs : s.seq = .busy op pos hz) (hh : s.host = ⟨.after 0, .port off size a⟩ :: rest) :
    step s = .next (portBusy op pos hz off size a { s with host := rest }) := by
  refine step_of_state ((takeTurn_busy_now hs hh).trans ?_)
  simp only [hostAct, portAct, hs]

/-! ## A write and the read after it -/

/-- The low `n` bits come from the written word, the others of an `n`-bit field read 0 (R12). -/
theorem field_written {n : Nat} {mask : Word} (hmask : ∀ i < 32, mask.getLsbD i = decide (i < n)) (v : Word)
    (x : BitVec n) : (v &&& mask) ||| (x.setWidth 32 &&& ~~~mask) = (v.extractLsb' 0 n).setWidth 32 := by
  apply BitVec.eq_of_getLsbD_eq
  intro i hi
  simp only [BitVec.getLsbD_or, BitVec.getLsbD_and, BitVec.getLsbD_not, BitVec.getLsbD_setWidth, hmask i hi,
    BitVec.getLsbD_extractLsb', Nat.zero_add, hi, decide_true, Bool.true_and]
  by_cases hn : i < n
  · simp [hn]
  · simp [hn, BitVec.getLsbD_of_ge x i (Nat.le_of_not_lt hn)]

/-- A one-bit field, written and read (R26, R43). -/
theorem bit_written (v : Word) (b : Bool) : (v &&& 1) ||| (bitWord b &&& ~~~1) = bitWord (v.getLsbD 0) := by
  have word (b : Bool) : bitWord b = (BitVec.ofBool b).setWidth 32 := by cases b <;> rfl
  have hbit : v.extractLsb' 0 1 = BitVec.ofBool (v.getLsbD 0) := by
    apply BitVec.eq_of_getLsbD_eq
    intro i hi
    obtain rfl : i = 0 := by omega
    simp
  rw [word, word, ← hbit]
  exact field_written (by decide) v _

/-- The value that a scanline cell reads: what was written, else the next draw (R43, R191). -/
theorem readReg_sl (busy : Bool) (i : Nat) (d : Datapath) :
    (readReg busy (.sl i) d).1 = bitWord ((sparseGet d.sl i).getD (Config.freeBit d.draws)) := by
  rcases readCell_cases i d with ⟨c, hc, e⟩ | ⟨hc, e⟩ <;> simp [readReg, e, hc]

/-- A register reads back its writable bits as written and the others as they were (R24 to R44). -/
theorem readReg_writeReg_same {r : Reg} (hstatus : r ≠ .status) (v : Word) (d : Datapath) :
    (readReg false r (writeReg r v d)).1 =
      (v &&& writableBits r) ||| ((readReg false r d).1 &&& ~~~ writableBits r) := by
  have full (w : Word) : v = (v &&& 0xFFFFFFFF) ||| (w &&& ~~~0xFFFFFFFF) := by
    simpa using (field_written (n := 32) (mask := 0xFFFFFFFF) (by decide) v w).symm
  have readOnly (w : Word) : w = (v &&& 0) ||| (w &&& ~~~0) := by
    rw [show ~~~(0 : Word) = BitVec.allOnes 32 from BitVec.not_zero, BitVec.and_allOnes]
    simp
  cases r with
  | status => exact absurd rfl hstatus
  | ctrl => exact (bit_written v d.ie).symm
  | offset => exact (field_written (by decide) v d.offset).symm
  | code k =>
    refine Eq.trans ?_ (field_written (mask := 0x7F) (by decide) v d.codes[k]).symm
    simp [readReg, writeReg]
  | sl i =>
    rw [readReg_sl, readReg_sl]
    refine Eq.trans ?_ (bit_written v _).symm
    simp [writeReg]
  | width => exact full _
  | height => exact full _
  | pixbase => exact full _
  | cursor => exact full _
  | modw => exact full _
  | _ => exact readOnly _

/-- A write to one register leaves what every other one reads (R24). -/
theorem readReg_writeReg_other {r r' : Reg} (hne : r' ≠ r) (v : Word) (d : Datapath) :
    (readReg false r' (writeReg r v d)).1 = (readReg false r' d).1 := by
  cases r' with
  | sl i' =>
    rw [readReg_sl, readReg_sl]
    cases r with
    | sl i =>
      have hi : i' ≠ i := fun h => hne (by rw [h])
      simp [writeReg, sparseGet_set_other _ _ hi]
    | _ => rfl
  | code k' =>
    cases r with
    | code k =>
      have hk : k.val ≠ k'.val := fun h => hne (by rw [Fin.ext h])
      simp [readReg, writeReg, Vector.getElem_set_ne _ _ hk]
    | _ => rfl
  | _ => cases r <;> simp_all [readReg, writeReg, Datapath.scanMax]

/-- A write moves neither SCAN_MAX nor with it the register map (R9). -/
theorem writeReg_scanMax (r : Reg) (v : Word) (d : Datapath) : (writeReg r v d).scanMax = d.scanMax := by
  cases r <;> rfl

/-! ## Reads in a busy period -/

/-- R45's rows as the statements write them are the model's own, entry by entry of the table
(R45, R200 (c)). -/
theorem rowBits_eq (op : Op) (r : Reg) (d : Datapath) : rowBits (scanWidth d) r op = mayWriteBits op r d := by
  cases op <;> cases r <;> simp [rowBits, stageBits, mayWriteBits]

/-- A read that finds no unwritten cell changes nothing (R70). -/
theorem readReg_snd {busy : Bool} {r : Reg} {d : Datapath} (h : ∀ i, r = .sl i → sparseGet d.sl i ≠ none) :
    (readReg busy r d).2 = d := by
  cases r with
  | sl i =>
    obtain ⟨c, hc⟩ := Option.ne_none_iff_exists'.1 (h i rfl)
    rw [readReg_sl_written hc]
  | _ => rfl

/-- An unwritten cell reads as a draw (R191). -/
theorem readReg_sl_unwritten {busy : Bool} {i : Nat} {d : Datapath} (h : sparseGet d.sl i = none) :
    readReg busy (.sl i) d = (bitWord (Config.freeBit d.draws), { d with draws := d.draws + 1 }) := by
  simp only [readReg, readCell, h, drawBit]

/-- A read in a busy period of a register that the command may not write (R200 (c)). -/
theorem readRegBusy_exact {op : Op} {r : Reg} {d : Datapath} (hr : r ≠ .status)
    (h : rowBits (scanWidth d) r op = 0) : readRegBusy op r d = readReg true r d := by
  rw [rowBits_eq] at h
  simp only [readRegBusy, if_neg hr, if_pos h]

/-- A read in a busy period of a register that the command may write (R200 (c)). -/
theorem readRegBusy_free {op : Op} {r : Reg} {d : Datapath} (hr : r ≠ .status)
    (h : rowBits (scanWidth d) r op ≠ 0) :
    readRegBusy op r d =
      (Config.freeWord d.draws &&& rowBits (scanWidth d) r op, { d with draws := d.draws + 1 }) := by
  rw [rowBits_eq] at h ⊢
  simp only [readRegBusy, if_neg hr, if_neg h, drawWord]
  rfl

/-- The clause on a field of `STATUS`, with the commands that may write it written out (R45). -/
theorem DrawnOr.clause {lo hi : Nat} {c v b : Bool} {p : Prop} [Decidable p] (h : DrawnOr lo hi c v b)
    (hp : c = decide p) : if p then ∃ k, lo ≤ k ∧ k < hi ∧ b = Config.freeBit k else b = v := by
  subst hp
  simpa [DrawnOr] using h

/-! ## W1C writes -/

/-- `STATUS` stands at its offset (R24). -/
theorem regAt_status (scanMax : Nat) : regAt scanMax (regOffset .status) = .status := rfl

/-- `CTRL` stands at its offset (R24). -/
theorem regAt_ctrl (scanMax : Nat) : regAt scanMax (regOffset .ctrl) = .ctrl := rfl

/-- The W1C write, field by field (R29). -/
theorem w1cWrite_eq (v : Word) (st : Status) : w1cWrite v st =
    { done := st.done && !v.getLsbD 1, oob := st.oob && !v.getLsbD 2, nobar := st.nobar, clsbit := st.clsbit,
      illcmd := st.illcmd && !v.getLsbD 5, cfgerr := st.cfgerr && !v.getLsbD 6,
      buserr := st.buserr && !v.getLsbD 7, busywr := st.busywr && !v.getLsbD 8 } := by
  simp [w1cWrite, Status.without, w1cFields]

/-- The fields that a W1C write in a busy period adds to those remembered, by R45's rows (R200 (b)). -/
theorem raced_w1c_eq (op : Op) (v : Word) (raced : Status) :
    raced.union ((w1cFields v).inter (mayWriteStatus op)) = { raced with
      done := raced.done || v.getLsbD 1
      oob := raced.oob || (v.getLsbD 2 && decide (op = .classify ∨ op = .assemble ∨ op = .run))
      cfgerr := raced.cfgerr || (v.getLsbD 6 && decide (op ≠ .translate))
      buserr := raced.buserr || (v.getLsbD 7 && decide (op = .unpack ∨ op = .run)) } := by
  cases op <;> simp [Status.union, Status.inter, w1cFields, mayWriteStatus]

end Sys2Proof.Machine

namespace Sys2Proof.Proofs

open Sys2Proof.Machine

/-- Settles O42: the named registers by evaluation, `CODE` and `SL` by their offsets as numbers. -/
theorem registerMapIsFaithful : Obligations.RegisterMapIsFaithful := by
  refine ⟨⟨rfl, rfl, rfl, rfl, rfl, rfl, rfl, rfl, rfl, rfl, rfl, rfl, rfl, rfl, rfl, regOffset_code_toNat,
    fun i hi => regOffset_sl_toNat hi⟩, fun cap => ⟨?_, ?_, fun off h => regAt_reserved _ h⟩⟩
  · intro r hr hcell
    have hcap : cap.toNat < 2 ^ 20 := cap.isLt
    cases r with
    | code k => exact regAt_code _ k
    | sl i =>
      have hi := hcell i rfl
      rw [regAt_sl (by omega), if_pos hi]
    | reserved => exact absurd rfl hr
    | _ => rfl
  · intro i hcap hi
    rw [regAt_sl hi, if_neg (by omega)]

/-- Settles O43: the two steps of the idle port, then what the written register and every other one reads. -/
theorem registerWriteReadsBack : Obligations.RegisterWriteReadsBack := by
  intro s m m' off v rest hs hoff hh r hcmd hstatus
  refine ⟨_, _, step_idle_write hs hoff hcmd hh, step_idle_read hs hoff rfl, rfl, ?_, fun r' hne => ?_⟩
  · simp only [writeReg_scanMax]
    exact congrArg Response.data (readReg_writeReg_same hstatus v s.dp)
  · exact readReg_writeReg_other hne v s.dp

/-- Settles O50: the read lands in the busy period, and its mask is R45's row (`rowBits_eq`). -/
theorem busyReadIsExactOrFree : Obligations.BusyReadIsExactOrFree := by
  intro s op pos hz off rest hs hh hoff r mask hr
  have hread : step s = .next { s with
      dp := (readRegBusy op r s.dp).2, resp := .data (readRegBusy op r s.dp).1, host := rest } := by
    rw [step_busy_port hs hh]
    simp only [portBusy, shapeOk_aligned hoff, if_true]
    rfl
  refine ⟨fun hmask hcell => ?_, fun hmask i hi hcell => ?_, fun hmask => ?_⟩
  · rw [hread, readRegBusy_exact hr hmask, readReg_snd hcell]
  · rw [hread, readRegBusy_exact hr hmask, hi, readReg_sl_unwritten hcell]
    rfl
  · rw [hread, readRegBusy_free hr hmask]

/-- Settles O51: the layout of `STATUS` on the fields that `readStatusBusy_eq` gives. -/
theorem busyStatusRead : Obligations.BusyStatusRead := by
  intro s op pos hz rest hs hh
  obtain ⟨oob, nobar, clsbit, cfgerr, buserr, n, e, hoob, hnobar, hclsbit, hcfgerr, hbuserr⟩ :=
    readStatusBusy_eq op s.dp
  have bit (i : Nat) := statusWord_getLsbD true { s.dp.status with
    done := false, oob := oob, nobar := nobar, clsbit := clsbit, cfgerr := cfgerr, buserr := buserr } i
  refine ⟨_, n, ?_, bit 0, bit 1, ?_, ?_, ?_, bit 5, ?_, ?_, bit 8, fun _ => statusWord_getLsbD_reserved _ _⟩
  case refine_1 =>
    rw [step_busy_port hs hh]
    simp only [portBusy, shapeOk_aligned (off := regOffset .status) rfl, if_true, regAt_status, readRegBusy, e]
  all_goals simp only [bit]
  case refine_2 => exact hoob.clause (by cases op <;> rfl)
  case refine_3 => exact hnobar.clause (by cases op <;> rfl)
  case refine_4 => exact hclsbit.clause (by cases op <;> rfl)
  case refine_5 => exact hcfgerr.clause (by cases op <;> rfl)
  case refine_6 => exact hbuserr.clause (by cases op <;> rfl)

/-- Settles O47: the idle port's write of `STATUS`, and the busy one with the fields it remembers. -/
theorem statusWriteClearsOnes : Obligations.StatusWriteClearsOnes := by
  intro s m v rest hh hland
  obtain ⟨dp, seq, resp, host⟩ := s
  subst hh
  cases seq with
  | idle =>
    rw [step_idle_write rfl rfl (by rw [regAt_status]; decide) rfl]
    simp only [regAt_status, writeReg, w1cWrite_eq]
  | busy op pos hz =>
    obtain rfl : m = .after 0 := hland.resolve_left (by simp)
    rw [step_busy_port rfl rfl]
    simp only [portBusy, shapeOk_aligned (off := regOffset .status) rfl, if_true, regAt_status, statusWriteBusy,
      w1cWrite_eq, raced_w1c_eq]

/-- Settles O37: what a command leaves, by its kind; the two register writes, by the port. -/
theorem completionRaisesInterrupt : Obligations.CompletionRaisesInterrupt := by
  refine ⟨fun _ => rfl, fun s t i h ht => ?_, fun s t op hs hu ht => ?_,
    fun s t m v rest hh hland hv ht => ?_, fun s t m v rest hh hs ht => ?_⟩
  · cases i with
    | unpack => exact exec_instr_irq .unpack h ht
    | measure => exact exec_instr_irq .measure h ht
    | classify => exact exec_instr_irq .classify h ht
    | assemble => exact exec_instr_irq .assemble h ht
    | translate => exact exec_instr_irq .translate h ht
    | run => exact exec_instr_irq .run h ht
    | softreset =>
      simp only [exec, execSoftreset, h.1] at ht
      cases ht
      exact ⟨rfl, rfl⟩
    | reservedOp0 => exact illegalCommand_irq h.1 ht
    | reservedOp8F low => exact illegalCommand_irq h.1 ht
    | reservedRsv op rsv => exact illegalCommand_irq h.1 ht
  · rw [exec_instr, command_disturbed hs hu] at ht
    cases ht
    exact Bool.and_false _
  · rw [statusWriteClearsOnes s m v rest hh hland] at ht
    cases ht
    simp [irq, hv]
  · rw [step_idle_write hs rfl (by rw [regAt_ctrl]; decide) hh] at ht
    cases ht
    rfl

end Sys2Proof.Proofs
end

section
/-! PROOF. TRANSLATE on the codes of eight digits (R139, R140, R143). -/

namespace Sys2Proof.Machine

/-- The entry of each digit in the LEFT table is found as that digit (R139, R141). -/
theorem lookup_left : ∀ x : Fin 10, lookup digitTables.1 (digitTables.1.getD x.val 0) = some x := by decide

/-- The entry of each digit in the RIGHT table is found as that digit (R139, R141). -/
theorem lookup_right : ∀ x : Fin 10, lookup digitTables.2 (digitTables.2.getD x.val 0) = some x := by decide

/-- A left digit's code passes its check (R140). -/
theorem checkDigit_left (x : Fin 10) (p : Fin 8) :
    checkDigit digitTables.1 (digitTables.1.getD x.val 0) p = .digit x := by
  simp only [checkDigit, lookup_left]

/-- A right digit's code passes its check (R140). -/
theorem checkDigit_right (x : Fin 10) (p : Fin 8) :
    checkDigit digitTables.2 (digitTables.2.getD x.val 0) p = .digit x := by
  simp only [checkDigit, lookup_right]

/-- Eight digits, one by one. -/
theorem toList_eight (ds : Vector (Fin 10) 8) :
    ds.toList = [ds[0], ds[1], ds[2], ds[3], ds[4], ds[5], ds[6], ds[7]] := by
  refine List.ext_getElem (by simp) fun i h _ => ?_
  rw [Vector.length_toList] at h
  interval_cases i <;> simp

/-- A check that passes (R140). -/
theorem translateLoop_pass {k : Fin 11} {d : Datapath} (h : checkCode k d.codes[k] = .pass) (ks : List (Fin 11))
    (found : List (Fin 10)) : translateLoop (k :: ks) found d = translateLoop ks found d := by
  simp only [translateLoop, h]

/-- A check that finds a digit (R140). -/
theorem translateLoop_digit {k : Fin 11} {d : Datapath} {x : Fin 10} (h : checkCode k d.codes[k] = .digit x)
    (ks : List (Fin 11)) (found : List (Fin 10)) :
    translateLoop (k :: ks) found d = translateLoop ks (found ++ [x]) d := by
  simp only [translateLoop, h]

/-- The checks of a symbol's codes: each guard passes, each digit's code gives the digit (R135 to R140). -/
theorem translateLoop_symbolCodes {ds : Vector (Fin 10) 8} {d : Datapath} (h : d.codes = symbolCodes ds) :
    translateLoop segments [] d = endTranslate .ok ds.toList d := by
  have code (k : Fin 11) {v : Verdict} (hv : checkCode k (symbolCodes ds)[k] = v) :
      checkCode k d.codes[k] = v := by rw [h, hv]
  simp only [symbolCodes, Fin.getElem_fin, Vector.getElem_ofFn] at code
  rw [toList_eight, segments,
    translateLoop_pass (code 0 rfl),
    translateLoop_digit (code 1 (checkDigit_left ds[0] 0)),
    translateLoop_digit (code 2 (checkDigit_left ds[1] 1)),
    translateLoop_digit (code 3 (checkDigit_left ds[2] 2)),
    translateLoop_digit (code 4 (checkDigit_left ds[3] 3)),
    translateLoop_pass (code 5 rfl),
    translateLoop_digit (code 6 (checkDigit_right ds[4] 4)),
    translateLoop_digit (code 7 (checkDigit_right ds[5] 5)),
    translateLoop_digit (code 8 (checkDigit_right ds[6] 6)),
    translateLoop_digit (code 9 (checkDigit_right ds[7] 7)),
    translateLoop_pass (code 10 rfl)]
  rfl

/-- Eight packed digits, each in its nibble (R40, R143). -/
theorem digitAt_packDigits (ds : Vector (Fin 10) 8) (j : Fin 8) :
    digitAt (packDigits ds.toList) j.val = ds[j].val := by
  rw [packDigits, digitAt_foldl _ _ j.isLt, Vector.length_toList, if_neg (by omega), Nat.add_sub_cancel]
  simp

end Sys2Proof.Machine

namespace Sys2Proof.Proofs

open Sys2Proof.Machine

/-- Settles O26: every check finds its guard or its digit, and `DIGITS` holds each digit in its nibble. -/
theorem translateRecoversDigits : Obligations.TranslateRecoversDigits := by
  intro s ds h hcodes
  refine ⟨packDigits ds.toList, ?_, digitAt_packDigits ds⟩
  have body : bodyEnd (translateBody (acceptFlags s.dp)) = endTranslate .ok ds.toList (acceptFlags s.dp) :=
    translateLoop_symbolCodes hcodes
  obtain ⟨dp, seq, resp, host⟩ := s
  have hs : seq = .idle := h.1
  subst hs
  rw [show exec .translate _ = _ from exec_instr_ready .translate h]
  simp only [Op.body, body, finishFlags_none]
  rfl

end Sys2Proof.Proofs
end

section
/-! PROOF. The word of four byte lanes; where an act of the host lands, and what it leaves: register accesses by
offset and by absolute address, writes of pixel memory (R61, R65 to R70, R74, R201). -/

namespace Sys2Proof.Machine

/-! ## Byte lanes -/

/-- The four lanes of a word make up the word (R65). -/
theorem wordOfBytes_lanes (v : Word) :
    wordOfBytes (v.extractLsb' 0 8) (v.extractLsb' 8 8) (v.extractLsb' 16 8) (v.extractLsb' 24 8) = v := by
  rw [wordOfBytes, BitVec.extractLsb'_append_extractLsb'_eq_extractLsb' (show 24 = 16 + 8 from rfl),
    BitVec.extractLsb'_append_extractLsb'_eq_extractLsb' (show 16 = 8 + 8 from rfl),
    BitVec.extractLsb'_append_extractLsb'_eq_extractLsb' (show 8 = 0 + 8 from rfl)]
  exact BitVec.extractLsb'_eq_self

/-- Every word decodes, to what its bits say (R85, R89). -/
theorem decode_bytesOfWord (v : Word) : decode (bytesOfWord v) = .ok (decodeWord v) :=
  congrArg (fun w => Except.ok (decodeWord w)) (wordOfBytes_lanes v)

/-! ## Where an act lands -/

/-- An act of the host lands when its moment has come: on an idle block, or in a busy period after no more block
steps (R210). -/
theorem takeTurn_lands {s : State} {m : Moment} {a : HostAct} {rest : List Turn} (hh : s.host = ⟨m, a⟩ :: rest)
    (hland : s.seq = .idle ∨ m = .after 0) : takeTurn s = hostAct a { s with host := rest } := by
  rcases hland with hs | rfl
  · exact takeTurn_idle hs hh
  · obtain ⟨dp, seq, resp, host⟩ := s
    subst hh
    cases seq <;> rfl

/-- A step at which an act lands that gives a next state. -/
theorem step_lands {s t : State} {m : Moment} {a : HostAct} {rest : List Turn} (hh : s.host = ⟨m, a⟩ :: rest)
    (hland : s.seq = .idle ∨ m = .after 0) (ha : hostAct a { s with host := rest } = .state t) :
    step s = .next t :=
  step_of_state ((takeTurn_lands hh hland).trans ha)

/-! ## Register accesses -/

/-- An access that is not 32 bits wide, or not aligned, has the wrong shape (R67). -/
theorem shapeOk_wrong {off : BitVec 23} {size : Nat} (h : size ≠ 4 ∨ off.toNat % 4 ≠ 0) :
    shapeOk off size = false := by
  rcases h with h | h <;> simp [shapeOk, h]

/-- An access of the wrong shape is answered with an error, idle or busy (R67). -/
theorem portAct_wrongShape {off : BitVec 23} {size : Nat} (h : shapeOk off size = false) (a : Access) (s : State) :
    portAct off size a s = .state { s with resp := .error } := by
  cases hs : s.seq <;> simp [portAct, hs, portIdle, portBusy, h]

/-- `CMD` stands at its offset (R24). -/
theorem regAt_cmd (scanMax : Nat) : regAt scanMax (regOffset .cmd) = .cmd := rfl

/-- The address of an offset in the window has that offset (R66). -/
theorem busOffset_inside (base : Nat) (off : BitVec 23) : busOffset base (base + off.toNat) = some off := by
  have hoff : off.toNat < 2 ^ 23 := off.isLt
  rw [busOffset, if_pos (by omega), Nat.add_sub_cancel_left, BitVec.ofNat_toNat, BitVec.setWidth_eq]

/-- An address below or above the window has no offset (R66). -/
theorem busOffset_outside {base addr : Nat} (h : addr < base ∨ base + 2 ^ 23 ≤ addr) :
    busOffset base addr = none :=
  if_neg (by omega)

/-- An access by absolute address in the window is the access at its offset (R66). -/
theorem hostAct_bus {addr : Nat} {off : BitVec 23} (h : busOffset Config.emsdBase addr = some off) (size : Nat)
    (a : Access) (s : State) : hostAct (.bus addr size a) s = hostAct (.port off size a) s := by
  simp only [hostAct, h]

/-! ## No act in the window stops the machine -/

/-- A turn that gives a next state or a command word, and leaves the host's acts as `host`. -/
def GoesOn (host : List Turn) : TurnResult → Prop
  | .state t => t.host = host
  | .command _ t => t.host = host
  | .fault _ => False

/-- A command word has a next state, and leaves the host's acts alone. -/
theorem exec_next (i : Instr) (s : State) : ∃ t, exec i s = .next t ∧ t.host = s.host := by
  have instr (op : Op) : ∃ t, exec op.instr s = .next t ∧ t.host = s.host := by
    rw [exec_instr]
    obtain ⟨t, ht, hcases⟩ := command_cases op op.body s
    exact ⟨t, ht, by rcases hcases with rfl | rfl | rfl <;> rfl⟩
  have illegal : ∃ t, illegalCommand s = .next t ∧ t.host = s.host := by
    unfold illegalCommand
    split <;> exact ⟨_, rfl, rfl⟩
  cases i with
  | unpack => exact instr .unpack
  | measure => exact instr .measure
  | classify => exact instr .classify
  | assemble => exact instr .assemble
  | translate => exact instr .translate
  | run => exact instr .run
  | softreset =>
    simp only [exec, execSoftreset]
    split <;> exact ⟨_, rfl, rfl⟩
  | reservedOp0 => exact illegal
  | reservedOp8F low => exact illegal
  | reservedRsv op rsv => exact illegal

/-- A register access never stops the machine (R67, R175). -/
theorem portAct_goesOn (off : BitVec 23) (size : Nat) (a : Access) (s : State) :
    GoesOn s.host (portAct off size a s) := by
  cases hshape : shapeOk off size with
  | false => rw [portAct_wrongShape hshape]; rfl
  | true =>
    cases hs : s.seq with
    | idle =>
      simp only [portAct, hs, portIdle, hshape, if_true]
      cases a with
      | read => rfl
      | write v => simp only; split <;> rfl
    | busy op pos hz =>
      simp only [portAct, hs, portBusy, hshape, if_true]
      cases a with
      | read => rfl
      | write v => simp only [GoesOn]; split <;> rfl

/-- A write of pixel memory leaves the host's acts alone. -/
theorem pixelWrite_host (addr : Word) (b : Byte) (s : State) : (pixelWrite addr b s).host = s.host := by
  unfold pixelWrite
  split
  · rfl
  · next op pos hz _ =>
    split
    · next j _ => rcases racePixel_cases op pos hz j addr (storePixel addr b s) with e | ⟨i, e⟩ <;> rw [e] <;> rfl
    · rfl

/-- No act that reaches EMSD stops the machine (R66). -/
theorem hostAct_goesOn {a : HostAct} (s : State)
    (h : ∀ addr size acc, a = .bus addr size acc → busOffset Config.emsdBase addr ≠ none) :
    GoesOn s.host (hostAct a s) := by
  cases a with
  | port off size acc => exact portAct_goesOn off size acc s
  | bus addr size acc =>
    obtain ⟨off, hoff⟩ := Option.ne_none_iff_exists'.1 (h addr size acc rfl)
    rw [hostAct_bus hoff]
    exact portAct_goesOn off size acc s
  | pixelWrite addr b => exact pixelWrite_host addr b s
  | resetInput => rfl

/-- A turn that goes on gives a step with a next state. -/
theorem GoesOn.step {s : State} {host : List Turn} (h : GoesOn host (takeTurn s)) :
    ∃ t, step s = .next t ∧ t.host = host := by
  unfold Machine.step
  split
  · next t e => rw [e] at h; exact ⟨t, rfl, h⟩
  · next v t e =>
    rw [e] at h
    obtain ⟨u, hu, hhost⟩ := exec_next (decodeWord v) t
    exact ⟨u, hu, hhost.trans h⟩
  · next e => rw [e] at h; exact h.elim

/-- Whoever's turn it is, where the host stays in the window the machine goes on, and the acts that are left stay
in the window (R66). -/
theorem takeTurn_goesOn {s : State} (h : hostInWindow s) :
    ∃ host, GoesOn host (takeTurn s) ∧ hostInWindow { s with host := host } := by
  have block (host : List Turn) : GoesOn host (.state (blockStep { s with host := host })) :=
    (blockStep_frame _).1
  cases hh : s.host with
  | nil =>
    refine ⟨[], ?_, by simp [hostInWindow]⟩
    cases hs : s.seq with
    | idle => rw [takeTurn_waits hs hh]; exact hh
    | busy op pos hz => rw [takeTurn_busy_nil hs hh]; exact (blockStep_frame s).1.trans hh
  | cons t rest =>
    obtain ⟨m, a⟩ := t
    have hact : ∀ addr size acc, a = .bus addr size acc → busOffset Config.emsdBase addr ≠ none :=
      h ⟨m, a⟩ (by simp [hh])
    have hrest : hostInWindow { s with host := rest } := fun t ht => h t (by simp [hh, List.mem_cons.2 (.inr ht)])
    have hlater (m' : Moment) : hostInWindow { s with host := ⟨m', a⟩ :: rest } := by
      intro t ht
      rcases List.mem_cons.1 ht with rfl | ht
      · exact hact
      · exact hrest t ht
    have lands (hland : s.seq = .idle ∨ m = .after 0) :
        ∃ host, GoesOn host (takeTurn s) ∧ hostInWindow { s with host := host } := by
      rw [takeTurn_lands hh hland]
      exact ⟨rest, hostAct_goesOn _ hact, hrest⟩
    cases hs : s.seq with
    | idle => exact lands (.inl hs)
    | busy op pos hz =>
      cases m with
      | whenIdle =>
        rw [takeTurn_busy_whenIdle hs hh]
        exact ⟨_, (blockStep_frame s).1.trans hh, hlater .whenIdle⟩
      | after n =>
        cases n with
        | zero => exact lands (.inr rfl)
        | succ n =>
          rw [takeTurn_busy_later hs hh]
          exact ⟨_, (blockStep_frame _).1, hlater (.after n)⟩

/-! ## Writes of pixel memory -/

/-- A byte of the row has its index, for no row has 2^32 bytes (R63, R201). -/
theorem rowIndex_rowByte {d : Datapath} {i : Nat} (hi : i < pixelBytes d) : rowIndex d (rowByte d i) = some i := by
  have hw := BitVec.toInt_lt (x := d.width)
  have hi' : i < 2 ^ 32 := by simp only [pixelBytes, scanWidth] at hi; omega
  have hindex : (rowByte d i - rowAddress d).toNat = i := by
    rw [rowByte, BitVec.add_comm, BitVec.add_sub_cancel, BitVec.toNat_ofNat, Nat.mod_eq_of_lt hi']
  simp only [rowIndex, hindex, if_pos hi]

/-- An address that is no pixel byte of the row has no index (R201). -/
theorem rowIndex_outside {d : Datapath} {a : Word} (h : ∀ i < pixelBytes d, a ≠ rowByte d i) :
    rowIndex d a = none := by
  refine if_neg fun hi => h _ hi ?_
  rw [rowByte, BitVec.ofNat_toNat, BitVec.setWidth_eq, BitVec.add_comm, BitVec.sub_add_cancel]

/-- Where the block is not in an UNPACK, a pixel write is only stored (R61, R201). -/
theorem pixelWrite_outsideUnpack {s : State} (addr : Word) (b : Byte)
    (h : ∀ op pos hz, s.seq = .busy op pos hz → unpackAt op pos = none) :
    pixelWrite addr b s = storePixel addr b s := by
  cases hs : s.seq with
  | idle => simp only [pixelWrite, hs]
  | busy op pos hz => simp only [pixelWrite, hs, h op pos hz hs]

/-- In an UNPACK, a pixel write is stored and races the byte that the block is at (R201). -/
theorem pixelWrite_unpack {s : State} {op : Op} {pos : Pos} {hz : Hazard} {j : Nat} (addr : Word) (b : Byte)
    (hs : s.seq = .busy op pos hz) (hj : unpackAt op pos = some j) :
    pixelWrite addr b s = racePixel op pos hz j addr (storePixel addr b s) := by
  simp only [pixelWrite, hs, hj]

/-- Where UNPACK is, alone or as RUN's first phase: at its start, or at a pixel byte (R201). -/
theorem unpackAt_of_unpacking {op : Op} {pos : Pos} {j : Nat} (hop : op = .unpack ∨ op = .run)
    (hpos : pos = .start ∧ j = 0 ∨ pos = .byte j) : unpackAt op pos = some j := by
  rcases hop with rfl | rfl <;> rcases hpos with ⟨rfl, rfl⟩ | rfl <;> rfl

/-- Other commands, and RUN past its first phase, are in no UNPACK (R201). -/
theorem unpackAt_eq_none {op : Op} {pos : Pos}
    (h : (op ≠ .unpack ∧ op ≠ .run) ∨ (pos ≠ .start ∧ ∀ j, pos ≠ .byte j)) : unpackAt op pos = none := by
  unfold unpackAt
  split <;> simp_all

/-- The race with pixel byte `i` (R74 (d), R201). -/
theorem racePixel_row {op : Op} {pos : Pos} {hz : Hazard} {j i : Nat} {addr : Word} {s : State}
    (h : rowIndex s.dp addr = some i) : racePixel op pos hz j addr s =
      { s with dp := racedRow i j s.dp, seq := .busy op pos { hz with pixRace := true } } := by
  simp only [racePixel, h, racedRow, drawByte]
  split <;> rfl

/-- A byte that UNPACK has read already is drawn again into its cells, and nothing else changes (R74 (d)). -/
theorem racedRow_read {i j : Nat} (h : i < j) (d : Datapath) :
    ∃ sl, racedRow i j d = { d with sl := sl, draws := d.draws + 1 } ∧
      ∀ x, sparseGet sl x = if x / 8 = i ∧ x < scanWidth d then
        some ((Config.freeByte d.draws).getLsbD (7 - x % 8)) else sparseGet d.sl x := by
  have hget := storeByte_get i (Config.freeByte d.draws) { d with draws := d.draws + 1 }
  obtain ⟨sl, e⟩ := storeByte_frame i (Config.freeByte d.draws) { d with draws := d.draws + 1 }
  rw [e] at hget
  exact ⟨sl, by rw [racedRow, if_pos h, e], hget⟩

/-- A byte that UNPACK has still to read is not in the row's cells yet (R201). -/
theorem racedRow_unread {i j : Nat} (h : ¬ i < j) (d : Datapath) : racedRow i j d = d := if_neg h

/-! ## The race in the block's steps -/

/-- The block's step does not touch the hazards of a command that goes on (R201). -/
theorem blockStep_keepsHazard {s : State} {op : Op} {pos : Pos} {hz : Hazard} (hs : s.seq = .busy op pos hz) :
    (blockStep s).seq = .idle ∨ ∃ pos', (blockStep s).seq = .busy op pos' hz := by
  rcases e : posStep op hz.pixRace pos s.dp with ⟨d, _ | pos'⟩
  · rw [blockStep_last hs e]; exact .inl rfl
  · rw [blockStep_goOn hs e]; exact .inr ⟨pos', rfl⟩

/-- The scanline after a block step is that of its turn: `finish()` leaves it alone (R150). -/
theorem blockStep_sl {s : State} {op : Op} {pos : Pos} {hz : Hazard} (hs : s.seq = .busy op pos hz) :
    (blockStep s).dp.sl = (posStep op hz.pixRace pos s.dp).1.sl := by
  rcases e : posStep op hz.pixRace pos s.dp with ⟨d, _ | pos'⟩
  · obtain ⟨_, _, _, _, _, -, -, -, -, -, hfinish⟩ := finishFlags_frame hz.raced d
    rw [blockStep_last hs e, hfinish]
  · rw [blockStep_goOn hs e]

/-- After the race, the turn at a byte that answers without error unpacks a draw (R201). -/
theorem posStep_byte_raced (op : Op) {j : Nat} {d : Datapath}
    (h : pixelError d.errs (d.rowaddr + BitVec.ofNat 32 j) = false) :
    (posStep op true (.byte j) d).1 = storeByte j (Config.freeByte d.draws) { d with
      pixReads := d.pixReads ++ [d.rowaddr + BitVec.ofNat 32 j], draws := d.draws + 1 } := by
  simp [posStep, unpackByte, memRead, h, drawByte]

end Sys2Proof.Machine

namespace Sys2Proof.Proofs

open Sys2Proof.Machine

/-- Settles O1: each word by evaluation of the decoder. -/
theorem knownWordsDecode : Obligations.KnownWordsDecode := by
  unfold Obligations.KnownWordsDecode
  decide

/-- Settles O5: the write lands on the idle port, which hands the word on, and the lanes of a word are the word. -/
theorem stepRunsDecodedCommand : Obligations.StepRunsDecodedCommand := by
  intro s m v rest i hs hh hi
  rw [decode_bytesOfWord] at hi
  cases hi
  refine step_of_command ((takeTurn_lands hh (.inl hs)).trans ?_)
  simp only [hostAct, portAct, hs, portIdle, shapeOk_aligned (off := regOffset .cmd) rfl, regAt_cmd, if_true]

/-- Settles O45: the read of the idle port, where the cell is written and where it is not. -/
theorem readsHaveNoSideEffect : Obligations.ReadsHaveNoSideEffect := by
  intro s m off rest hs hoff hh r
  refine ⟨fun hcell => ?_, fun i hi hcell => ?_⟩
  · rw [step_idle_read hs hoff hh, readReg_snd hcell]
  · rw [step_idle_read hs hoff hh, show regAt s.dp.scanMax off = .sl i from hi, readReg_sl_unwritten hcell]
    rfl

/-- Settles O46: the access lands, and its shape alone decides. -/
theorem wrongShapeGetsErrorResponse : Obligations.WrongShapeGetsErrorResponse :=
  fun _ _ _ _ a _ hh hland h => step_lands hh hland (portAct_wrongShape (shapeOk_wrong h) a _)

/-- Settles O52: the access lands, and the window decides which offset it has, if any. -/
theorem windowLiesAtBase : Obligations.WindowLiesAtBase := by
  intro s m size a rest hland
  refine ⟨fun off => ?_, fun addr h => ?_⟩
  · simp only [step, takeTurn_lands (s := { s with host := _ :: _ }) rfl hland,
      hostAct_bus (busOffset_inside Config.emsdBase off)]
  · simp only [step, takeTurn_lands (s := { s with host := _ :: _ }) rfl hland, hostAct, busOffset_outside h]

/-- Settles O55: outside an UNPACK the write is only stored, and a sparse write reads back. -/
theorem pixelWriteStoresOneByte : Obligations.PixelWriteStoresOneByte := by
  intro s m addr b rest hh hwhen
  have hland : s.seq = .idle ∨ m = .after 0 := hwhen.imp_right And.left
  have houtside : ∀ op pos hz, s.seq = .busy op pos hz → unpackAt op pos = none := by
    intro op pos hz hs
    obtain hidle | ⟨-, op', pos', hz', hs', h⟩ := hwhen
    · simp [hs] at hidle
    · rw [hs] at hs'
      cases hs'
      exact unpackAt_eq_none h
  refine ⟨_, step_lands hh hland (congrArg TurnResult.state ?_), storePixel_get addr b s⟩
  exact pixelWrite_outsideUnpack addr b houtside

/-- Settles O57: no turn of the host in the window stops the machine, and an idle block without one waits. -/
theorem everyStepProgresses : Obligations.EveryStepProgresses := by
  refine ⟨fun s h => ?_, fun s hs hh => step_of_state (takeTurn_waits hs hh)⟩
  obtain ⟨host, hturn, hwindow⟩ := takeTurn_goesOn h
  obtain ⟨t, ht, rfl⟩ := hturn.step
  exact ⟨t, ht, hwindow⟩

/-- Settles O54: the act lands as a pixel write; a write of the row is found by its index (`rowIndex_rowByte`), and
the bytes read before and after it are drawn. -/
theorem pixelRaceMakesBytesFree : Obligations.PixelRaceMakesBytesFree := by
  refine ⟨fun s m addr b rest hh hland => step_lands hh hland rfl, fun s op pos hz j addr b hop hs hpos => ?_,
    fun s op j hz hs hrace he x hx hw => ?_, fun _ _ _ _ hs => blockStep_keepsHazard hs⟩
  · have hwrite := pixelWrite_unpack addr b hs (unpackAt_of_unpacking hop hpos)
    refine ⟨fun houtside => ?_, fun i hi haddr => ?_⟩
    · have hindex : rowIndex (storePixel addr b s).dp addr = none := rowIndex_outside (d := s.dp) houtside
      rw [hwrite, racePixel, hindex]
    · have hindex : rowIndex (storePixel addr b s).dp addr = some i := haddr ▸ rowIndex_rowByte (d := s.dp) hi
      rw [hwrite, racePixel_row hindex]
      by_cases hij : i < j
      · obtain ⟨sl, e, hget⟩ := racedRow_read hij (storePixel addr b s).dp
        rw [e]
        exact ⟨sl, s.dp.draws + 1, rfl, by rw [if_pos hij]; exact ⟨rfl, hget⟩⟩
      · rw [racedRow_unread hij]
        exact ⟨s.dp.sl, s.dp.draws, rfl, by rw [if_neg hij]; exact ⟨rfl, rfl⟩⟩
  · rw [blockStep_sl hs, hrace, posStep_byte_raced op he, storeByte_get]
    exact if_pos ⟨hx, hw⟩

end Sys2Proof.Proofs
end

section
/-! PROOF. UNPACK's byte loop: the row it reads, to its end or to the first byte that answers with an error
(R71, R103, R104, R162). -/

namespace Sys2Proof.Machine

variable {d : Datapath} {n : Nat}

/-! ## The row as read -/

/-- `d` after UNPACK has selected the row and read its first `n` bytes into the cells `sl` (R103). -/
def readRow (d : Datapath) (n : Nat) (sl : Scanline) (draws : Nat) : Datapath :=
  { selectRow d with sl := sl, pixReads := d.pixReads ++ (List.range n).map (rowByte d), draws := draws }

/-- A row selected and not read. -/
theorem readRow_zero (d : Datapath) : readRow d 0 d.sl d.draws = selectRow d := by
  simp only [readRow, List.range_zero, List.map_nil, List.append_nil]
  rfl

/-- The first `n` bytes of the row of `d`, read as `bytes`, leave the cells `sl` and the draw counter `draws`: a
byte that was written reads as written and the others are draws, one each (R62, R64, R211). -/
structure RowRead (d : Datapath) (n : Nat) (bytes : Nat → Byte) (sl : Scanline) (draws : Nat) : Prop where
  agrees  : rowAgrees d n bytes
  written : rowWritten d n → draws = d.draws
  le      : d.draws ≤ draws
  bound   : draws ≤ d.draws + n
  cells   : ∀ x, sparseGet sl x =
    if x < 8 * n ∧ x < scanWidth d then some (rowPixel bytes x) else sparseGet d.sl x

/-- No byte read yet. -/
theorem RowRead.zero (d : Datapath) (bytes : Nat → Byte) : RowRead d 0 bytes d.sl d.draws where
  agrees j hj := absurd hj (Nat.not_lt_zero j)
  written _ := rfl
  le := Nat.le_refl _
  bound := Nat.le_refl _
  cells x := by simp

/-- A byte read later is a pixel of no byte before it (R64). -/
theorem rowPixel_update {bytes : Nat → Byte} {b : Byte} {x : Nat} :
    rowPixel (Function.update bytes n b) x =
      if x / 8 = n then b.getLsbD (7 - x % 8) else rowPixel bytes x := by
  simp only [rowPixel, Function.update_apply]
  split <;> rfl

/-- One byte more: the one written there, else a draw, in its eight cells (R64, R103). -/
theorem RowRead.succ {bytes : Nat → Byte} {sl sl' : Scanline} {draws draws' : Nat} {b : Byte}
    (h : RowRead d n bytes sl draws)
    (hb : (sparseGet d.mem (rowByte d n).toNat = some b ∧ draws' = draws) ∨
      (sparseGet d.mem (rowByte d n).toNat = none ∧ draws' = draws + 1))
    (hsl : ∀ x, sparseGet sl' x =
      if x / 8 = n ∧ x < scanWidth d then some (b.getLsbD (7 - x % 8)) else sparseGet sl x) :
    RowRead d (n + 1) (Function.update bytes n b) sl' draws' where
  agrees j hj c hc := by
    rw [Function.update_apply]
    split
    · next hjn =>
      subst hjn
      rcases hb with ⟨hmem, -⟩ | ⟨hmem, -⟩
      · exact Option.some.inj (hmem.symm.trans hc)
      · simp [hmem] at hc
    · next hjn => exact h.agrees j (by omega) c hc
  written hw := by
    rcases hb with ⟨-, rfl⟩ | ⟨hmem, -⟩
    · exact h.written fun j hj => hw j (by omega)
    · exact absurd hmem (hw n (Nat.lt_succ_self n))
  le := by have := h.le; omega
  bound := by have := h.bound; omega
  cells x := by
    rw [hsl, h.cells, rowPixel_update]
    by_cases hx : x / 8 = n
    · have h₁ : x < 8 * (n + 1) := by omega
      have h₂ : ¬ x < 8 * n := by omega
      simp [hx, h₁, h₂]
    · have h₁ : x < 8 * (n + 1) ↔ x < 8 * n := by omega
      simp [hx, h₁]

/-- Where the bytes of the row were all written, what is read is what they hold (R62). -/
theorem RowRead.bytes_eq {bytes bytes' : Nat → Byte} {sl : Scanline} {draws : Nat} (h : RowRead d n bytes' sl draws)
    (hrow : RowHolds d n bytes) : draws = d.draws ∧ ∀ j < n, bytes' j = bytes j :=
  ⟨h.written fun j hj => by simp [(hrow j hj).2], fun j hj => h.agrees j hj _ (hrow j hj).2⟩

/-! ## The loop -/

/-- One turn of the byte loop on a row read so far without error (R103). -/
theorem unpackByte_readRow {bytes : Nat → Byte} {sl : Scanline} {draws : Nat} (h : RowRead d n bytes sl draws)
    (he : pixelError d.errs (rowByte d n) = false) :
    ∃ bytes' sl' draws', RowRead d (n + 1) bytes' sl' draws' ∧
      unpackByte false n (readRow d n sl draws) = .ok (readRow d (n + 1) sl' draws') := by
  rcases unpackByte_cases false n (readRow d n sl draws) with ⟨herr, -⟩ | ⟨-, b, draws', -, hb, e⟩
  · exact absurd (herr.symm.trans he) (by decide)
  · have hget := storeByte_get n b { readRow d n sl draws with
      pixReads := (readRow d n sl draws).pixReads ++ [rowByte d n], draws := draws' }
    obtain ⟨sl', hsl⟩ := storeByte_frame n b { readRow d n sl draws with
      pixReads := (readRow d n sl draws).pixReads ++ [rowByte d n], draws := draws' }
    rw [hsl] at hget
    refine ⟨_, sl', draws', h.succ (b := b) ?_ hget, (e.trans (congrArg Except.ok hsl)).trans ?_⟩
    · rcases hb with ⟨-, hmem, hdraws⟩ | ⟨hmem, -, hdraws⟩
      · exact .inl ⟨hmem, hdraws⟩
      · exact .inr ⟨hmem.resolve_left (by decide), hdraws⟩
    · simp [readRow, List.range_succ]

/-- The byte loop over `n` bytes that answer without error, with `more` to go (R71, R103). -/
theorem unpackLoop_readable : ∀ n, rowReadable d n → ∃ bytes sl draws, RowRead d n bytes sl draws ∧
    ∀ more, unpackLoop (n + more) 0 (selectRow d) = unpackLoop more n (readRow d n sl draws)
  | 0, _ => ⟨fun _ => 0, d.sl, d.draws, .zero d _, fun more => by rw [Nat.zero_add, readRow_zero]⟩
  | n + 1, h => by
    obtain ⟨bytes, sl, draws, hread, hloop⟩ := unpackLoop_readable n fun j hj => h j (by omega)
    obtain ⟨bytes', sl', draws', hread', e⟩ := unpackByte_readRow hread (h n (Nat.lt_succ_self n))
    refine ⟨bytes', sl', draws', hread', fun more => ?_⟩
    rw [Nat.add_right_comm n 1 more, Nat.add_assoc n more 1, hloop, unpackLoop, e]

/-- UNPACK of a row that answers without error (R103). -/
theorem unpackBody_readable (hi : imageOk d = true) (h : rowReadable d (pixelBytes d)) :
    ∃ bytes sl draws, RowRead d (pixelBytes d) bytes sl draws ∧
      unpackBody d = .ok (readRow d (pixelBytes d) sl draws) := by
  obtain ⟨bytes, sl, draws, hread, hloop⟩ := unpackLoop_readable (pixelBytes d) h
  exact ⟨bytes, sl, draws, hread, by simp only [unpackBody, hi, if_true]; exact hloop 0⟩

/-- UNPACK of a row whose byte `n` is the first to answer with an error: the bytes before it are read, and the
failing address is the last one issued (R162). -/
theorem unpackBody_busError (hi : imageOk d = true) (hn : n < pixelBytes d) (h : rowReadable d n)
    (he : pixelError d.errs (rowByte d n) = true) :
    ∃ bytes sl draws, RowRead d n bytes sl draws ∧
      unpackBody d = .error { readRow d (n + 1) sl draws with status := { d.status with buserr := true } } := by
  obtain ⟨bytes, sl, draws, hread, hloop⟩ := unpackLoop_readable n h
  refine ⟨bytes, sl, draws, hread, ?_⟩
  obtain ⟨more, hmore⟩ : ∃ more, pixelBytes d = n + (more + 1) := ⟨pixelBytes d - n - 1, by omega⟩
  rcases unpackByte_cases false n (readRow d n sl draws) with ⟨-, e⟩ | ⟨herr, -⟩
  · simp only [unpackBody, hi, if_true, hmore, hloop, unpackLoop, e]
    simp [readRow, List.range_succ, rowByte]
  · exact absurd (herr.symm.trans he) (by decide)

/-- All pixels of the row lie in its pixel bytes (R63, R103). -/
theorem scanWidth_le_pixelBytes (d : Datapath) : scanWidth d ≤ 8 * pixelBytes d := by
  simp only [pixelBytes]
  omega

/-- The cells of a whole row: its pixels below `W`, and those above as they were (R104). -/
theorem RowRead.row {bytes : Nat → Byte} {sl : Scanline} {draws : Nat}
    (h : RowRead d (pixelBytes d) bytes sl draws) (x : Nat) :
    sparseGet sl x = if x < scanWidth d then some (rowPixel bytes x) else sparseGet d.sl x := by
  have hle := scanWidth_le_pixelBytes d
  rw [h.cells]
  exact if_congr ⟨And.right, fun hx => ⟨by omega, hx⟩⟩ rfl rfl

/-- The cells of the bytes before one that the row has: all lie below `W` (R103, R162). -/
theorem RowRead.partialRow {bytes : Nat → Byte} {sl : Scanline} {draws : Nat} (h : RowRead d n bytes sl draws)
    (hn : n < pixelBytes d) (x : Nat) :
    sparseGet sl x = if x < 8 * n then some (rowPixel bytes x) else sparseGet d.sl x := by
  rw [h.cells]
  simp only [pixelBytes] at hn
  exact if_congr ⟨And.left, fun hx => ⟨hx, by omega⟩⟩ rfl rfl

/-- Where UNPACK raises, alone or as RUN's first phase, the command ends with it (R153). -/
theorem body_of_unpackBody_error {op : Op} {d' : Datapath} (hop : op = .unpack ∨ op = .run)
    (h : unpackBody d = .error d') : op.body d = .error d' := by
  rcases hop with rfl | rfl
  · exact h
  · simp only [Op.body, runBody, bodyThen, h]

end Sys2Proof.Machine

namespace Sys2Proof.Proofs

open Sys2Proof.Machine

/-- Settles O10: the byte loop reads the whole row (`unpackBody_readable`), and its cells are all of `[0, W)`. -/
theorem unpackFillsScanline : Obligations.UnpackFillsScanline := by
  intro s h hi hrow
  obtain ⟨bytes, sl, n, hread, e⟩ := unpackBody_readable (d := acceptFlags s.dp) hi hrow
  refine ⟨bytes, sl, n, hread.agrees, hread.written, hread.le, hread.bound, ?_, hread.row⟩
  rw [show exec .unpack s = _ from exec_instr_ready .unpack h]
  simp only [Op.body, e, bodyEnd, finishFlags_none, ← h.1]
  rfl

/-- Settles O11: UNPACK raises at the failing byte (`unpackBody_busError`), and RUN with it. -/
theorem busErrorKeepsPartialRow : Obligations.BusErrorKeepsPartialRow := by
  intro s j h hi hj hrow he
  obtain ⟨bytes, sl, n, hread, e⟩ := unpackBody_busError (d := acceptFlags s.dp) hi hj hrow he
  refine ⟨bytes, sl, n, hread.agrees, hread.written, fun op hop => ?_, hread.partialRow hj⟩
  rw [exec_instr_ready op h, body_of_unpackBody_error hop e]
  simp only [bodyEnd, finishFlags_none, ← h.1]
  rfl

end Sys2Proof.Proofs
end

section
/-! PROOF. What a command's stages read: UNPACK the pixel bytes of its row, the sampler the cells of `[0, W)`, and
none the port's trace (R61, R71, R110, R153). -/

namespace Sys2Proof.Machine

/-! ## The sampler's view -/

/-- All the sampler reads is the same in `d` and `e`: `W`, the cells below it, and the next draw (R110, R191). -/
structure SameView (d e : Datapath) : Prop where
  width : e.width = d.width
  draws : e.draws = d.draws
  cells : ∀ i < scanWidth d, sparseGet e.sl i = sparseGet d.sl i

/-- `d` after reads of the sampler that took the draws before `n`, with `OOB` set when `o` holds (R110). -/
def sampled (o : Bool) (n : Nat) (d : Datapath) : Datapath :=
  { d with status := { d.status with oob := d.status.oob || o }, draws := n }

/-- Reads of the sampler that give the same value and leave the same mark on `d` and on `e`. -/
def ReadAlike {α : Type} (d e : Datapath) (x y : α × Datapath) : Prop :=
  ∃ (v : α) (o : Bool) (n : Nat), x = (v, sampled o n d) ∧ y = (v, sampled o n e)

variable {d e : Datapath}

theorem SameView.scanWidth_eq (h : SameView d e) : scanWidth e = scanWidth d := by
  rw [scanWidth, scanWidth, h.width]

theorem SameView.sampled (h : SameView d e) (o : Bool) (n : Nat) : SameView (sampled o n d) (sampled o n e) :=
  ⟨h.width, rfl, h.cells⟩

theorem sampled_self (d : Datapath) : sampled false d.draws d = d := by
  simp [sampled]

theorem sampled_sampled (o o' : Bool) (n n' : Nat) (d : Datapath) :
    sampled o' n' (sampled o n d) = sampled (o || o') n' d := by
  simp [sampled, Bool.or_assoc]

/-- No read at all. -/
theorem SameView.pure {α : Type} (h : SameView d e) (v : α) : ReadAlike d e (v, d) (v, e) :=
  ⟨v, false, d.draws, by rw [sampled_self], by rw [← h.draws, sampled_self]⟩

/-- Reads after reads: the marks add up. -/
theorem ReadAlike.after {α : Type} {o : Bool} {n : Nat} {x y : α × Datapath}
    (h : ReadAlike (sampled o n d) (sampled o n e) x y) : ReadAlike d e x y := by
  obtain ⟨v, o', n', rfl, rfl⟩ := h
  exact ⟨v, o || o', n', by rw [sampled_sampled], by rw [sampled_sampled]⟩

/-- The read of a cell below `W` (R43, R191). -/
theorem readCell_alike (h : SameView d e) {i : Nat} (hi : i < scanWidth d) :
    ∃ c n, readCell i d = (c, { d with draws := n }) ∧ readCell i e = (c, { e with draws := n }) := by
  rcases readCell_cases i d with ⟨c, hc, hd⟩ | ⟨hc, hd⟩
  · exact ⟨c, d.draws, hd, by rw [readCell_written ((h.cells i hi).trans hc), ← h.draws]⟩
  · refine ⟨_, _, hd, ?_⟩
    simp only [readCell, h.cells i hi, hc, drawBit, h.draws]

/-- `SLRead` (R110). -/
theorem slRead_alike (h : SameView d e) (i : Int) : ReadAlike d e (slRead i d) (slRead i e) := by
  by_cases hi : 0 ≤ i ∧ i < d.width.toInt
  · obtain ⟨c, n, hd, he⟩ := readCell_alike h (i := i.toNat) (by simp only [scanWidth]; omega)
    refine ⟨c, false, n, ?_, ?_⟩
    · simp [slRead, hi, hd, sampled]
    · simp [slRead, h.width, hi, he, sampled]
  · refine ⟨Config.freeBit d.draws, true, d.draws + 1, ?_, ?_⟩
    · simp [slRead_out hi, sampled]
    · simp [slRead_out (h.width ▸ hi : ¬(0 ≤ i ∧ i < e.width.toInt)), h.draws, sampled]

/-- One turn of the vote (R115). -/
theorem voteTurn_alike (h : SameView d e) (buf bw off k darks lights : Nat) :
    ReadAlike d e (voteTurn buf bw off k darks lights d) (voteTurn buf bw off k darks lights e) := by
  obtain ⟨v, o, n, hd, he⟩ := slRead_alike h (windowIndex buf off k)
  simp only [voteTurn_eq, hd, he]
  exact ⟨_, o, n, rfl, rfl⟩

/-- The vote (R115). -/
theorem voteLoop_alike (buf bw off : Nat) : ∀ (rem k darks lights : Nat) {d e : Datapath}, SameView d e →
    ReadAlike d e (voteLoop buf bw off rem k darks lights d) (voteLoop buf bw off rem k darks lights e)
  | 0, _, _, _, _, _, h => h.pure dark
  | rem + 1, k, darks, lights, d, e, h => by
    obtain ⟨ballot, o, n, hd, he⟩ := voteTurn_alike h buf bw off k darks lights
    simp only [voteLoop, hd, he]
    cases ballot with
    | decided c => exact ⟨c, o, n, rfl, rfl⟩
    | counted x y => exact (voteLoop_alike buf bw off rem (k + 1) x y (h.sampled o n)).after

/-- `Classify` (R115). -/
theorem classifySpan_alike (h : SameView d e) (buf bw off : Nat) :
    ReadAlike d e (classifySpan buf bw off d) (classifySpan buf bw off e) := by
  obtain ⟨a, o₁, n₁, hd₁, he₁⟩ := slRead_alike h buf
  have h₁ := h.sampled o₁ n₁
  obtain ⟨b, o₂, n₂, hd₂, he₂⟩ := slRead_alike h₁ (farIndex buf bw off)
  have h₂ := h₁.sampled o₂ n₂
  simp only [classifySpan, hd₁, he₁, hd₂, he₂]
  split
  · exact (h₂.pure a).after.after
  · exact (voteLoop_alike buf bw off bw 0 0 0 h₂).after.after

/-! ## MEASURE -/

/-- `d` after MEASURE has found the bar of `n` cells at `p`, with the draws before `k` taken (R112). -/
def measured (p n k : Nat) (d : Datapath) : Datapath := endMeasure p n { d with draws := k }

theorem SameView.drawn (h : SameView d e) (n : Nat) : SameView { d with draws := n } { e with draws := n } :=
  ⟨h.width, rfl, h.cells⟩

/-- The margin skip (R112). -/
theorem skipLoop_alike : ∀ (rem p : Nat) {d e : Datapath}, SameView d e → p + rem ≤ scanWidth d →
    ∃ q n, skipLoop rem p d = (q, { d with draws := n }) ∧ skipLoop rem p e = (q, { e with draws := n })
  | 0, p, d, e, h, _ => ⟨p, d.draws, rfl, by rw [← h.draws]; rfl⟩
  | rem + 1, p, d, e, h, hp => by
    obtain ⟨c, n, hd, he⟩ := readCell_alike h (i := p) (by omega)
    simp only [skipLoop, hd, he]
    cases c with
    | false => exact ⟨p, n, rfl, rfl⟩
    | true =>
      have hp' : p + 1 + rem ≤ scanWidth { d with draws := n } := by rw [Nat.add_right_comm]; exact hp
      exact skipLoop_alike rem (p + 1) (h.drawn n) hp'

/-- The width count (R112). -/
theorem countLoop_alike : ∀ (rem p m : Nat) {d e : Datapath}, SameView d e → p + m + rem ≤ scanWidth d →
    ∃ q n, countLoop rem p m d = (q, { d with draws := n }) ∧ countLoop rem p m e = (q, { e with draws := n })
  | 0, _, m, d, e, h, _ => ⟨m, d.draws, rfl, by rw [← h.draws]; rfl⟩
  | rem + 1, p, m, d, e, h, hp => by
    obtain ⟨c, n, hd, he⟩ := readCell_alike h (i := p + m) (by omega)
    simp only [countLoop, hd, he]
    cases c with
    | true => exact ⟨m, n, rfl, rfl⟩
    | false =>
      have hsum : p + m + (rem + 1) = p + (m + 1) + rem := by omega
      have hp' : p + (m + 1) + rem ≤ scanWidth { d with draws := n } := hsum ▸ hp
      exact countLoop_alike rem p (m + 1) (h.drawn n) hp'

/-- MEASURE (R112). -/
theorem measureBody_alike (h : SameView d e) (hd : widthOk d = true) (he : widthOk e = true) :
    ∃ p n k, measureBody d = .ok (measured p n k d) ∧ measureBody e = .ok (measured p n k e) := by
  obtain ⟨p, k₁, skip, skip'⟩ := skipLoop_alike (scanWidth d) 0 h (Nat.le_of_eq (Nat.zero_add _))
  have hp : p ≤ scanWidth d := by
    have hle := (skipLoop_frame (scanWidth d) 0 d).1.2
    simpa only [skip, Nat.zero_add] using hle
  have hdark : firstDark p { e with draws := k₁ } = firstDark p { d with draws := k₁ } := by
    simp only [firstDark, (h.drawn k₁).scanWidth_eq]
  have hrem : p + firstDark p { d with draws := k₁ } + (scanWidth d - p - firstDark p { d with draws := k₁ }) ≤
      scanWidth { d with draws := k₁ } := by
    rw [show scanWidth { d with draws := k₁ } = scanWidth d from rfl, firstDark]
    split
    · next hlt => change p < scanWidth d at hlt; omega
    · omega
  obtain ⟨n, k₂, count, count'⟩ := countLoop_alike _ p _ (h.drawn k₁) hrem
  refine ⟨p, n, k₂, ?_, ?_⟩
  · simp only [measureBody, hd, if_true, skip]
    rw [show scanWidth { d with draws := k₁ } = scanWidth d from rfl, count]
    rfl
  · simp only [measureBody, he, if_true, h.scanWidth_eq, skip', hdark]
    rw [show scanWidth { e with draws := k₁ } = scanWidth d from h.scanWidth_eq, count']
    rfl

/-! ## ASSEMBLE and TRANSLATE -/

/-- The codes `cs` after the stores of `vs` in turn (R42). -/
def storeCodes (vs : List (Fin 11 × Code)) (cs : Vector Code 11) : Vector Code 11 :=
  vs.foldl (fun cs v => cs.set v.1 v.2) cs

/-- `d` after ASSEMBLE has stored the codes `vs`, the cursor at `c`, its reads marked as in `sampled` (R126). -/
def assembled (vs : List (Fin 11 × Code)) (c : Word) (o : Bool) (n : Nat) (d : Datapath) : Datapath :=
  { sampled o n d with codes := storeCodes vs d.codes, cursor := c }

/-- The modules of one segment (R126). -/
theorem sampleModules_alike (bw : Word) (off : Nat) : ∀ (m : Nat) (acc : Code) (c : Word) {d e : Datapath},
    SameView d e → ReadAlike d e (sampleModules bw off m acc c d) (sampleModules bw off m acc c e)
  | 0, acc, c, _, _, h => h.pure (acc, c)
  | m + 1, acc, c, d, e, h => by
    obtain ⟨x, o, n, hd, he⟩ := classifySpan_alike h c.toNat bw.toNat off
    simp only [sampleModules, hd, he]
    exact (sampleModules_alike bw off m _ _ (h.sampled o n)).after

/-- The segments: the same codes are stored, in the order of the segments (R126). -/
theorem sampleSegments_alike (bw : Word) (off : Nat) : ∀ (ks : List (Fin 11)) (c : Word) {d e : Datapath},
    SameView d e → ∃ (vs : List (Fin 11 × Code)) (c' : Word) (o : Bool) (n : Nat), vs.map Prod.fst = ks ∧
      sampleSegments bw off ks c d = (c', { sampled o n d with codes := storeCodes vs d.codes }) ∧
      sampleSegments bw off ks c e = (c', { sampled o n e with codes := storeCodes vs e.codes })
  | [], c, d, e, h => by
    refine ⟨[], c, false, d.draws, rfl, ?_, ?_⟩
    · rw [sampled_self]; rfl
    · rw [← h.draws, sampled_self]; rfl
  | k :: ks, c, d, e, h => by
    obtain ⟨⟨acc, c₁⟩, o₁, n₁, hd₁, he₁⟩ := sampleModules_alike bw off (segLen k) 0 c h
    have h₁ : SameView (setCode k acc (sampled o₁ n₁ d)) (setCode k acc (sampled o₁ n₁ e)) :=
      ⟨h.width, rfl, h.cells⟩
    obtain ⟨vs, c₂, o₂, n₂, hks, hd₂, he₂⟩ := sampleSegments_alike bw off ks c₁ h₁
    refine ⟨(k, acc) :: vs, c₂, o₁ || o₂, n₂, by rw [List.map_cons, hks], ?_, ?_⟩
    · simp only [sampleSegments, hd₁, hd₂, ← sampled_sampled o₁ o₂ n₁ n₂]
      rfl
    · simp only [sampleSegments, he₁, he₂, ← sampled_sampled o₁ o₂ n₁ n₂]
      rfl

/-- ASSEMBLE (R126). -/
theorem assembleBody_alike (h : SameView d e) (hd : widthOk d = true) (he : widthOk e = true)
    (hcursor : e.cursor = d.cursor) (hmodw : e.modw = d.modw) (hoffset : e.offset = d.offset) :
    ∃ vs c o n, vs.map Prod.fst = segments ∧ assembleBody d = .ok (assembled vs c o n d) ∧
      assembleBody e = .ok (assembled vs c o n e) := by
  obtain ⟨vs, c, o, n, hks, hd', he'⟩ := sampleSegments_alike d.modw d.offset.toNat segments d.cursor h
  refine ⟨vs, c, o, n, hks, ?_, ?_⟩
  · simp only [assembleBody, hd, if_true, hd']
    rfl
  · simp only [assembleBody, he, if_true, hcursor, hmodw, hoffset, he']
    rfl

/-- TRANSLATE reads the codes alone (R140). -/
theorem translateLoop_alike (h : e.codes = d.codes) : ∀ (ks : List (Fin 11)) (found : List (Fin 10)),
    ∃ r ds, translateLoop ks found d = endTranslate r ds d ∧ translateLoop ks found e = endTranslate r ds e
  | [], found => ⟨.ok, found, rfl, rfl⟩
  | k :: ks, found => by
    simp only [translateLoop, h]
    cases checkCode k d.codes[k] with
    | pass => exact translateLoop_alike h ks found
    | digit x => exact translateLoop_alike h ks (found ++ [x])
    | fail r => exact ⟨r, found, rfl, rfl⟩

/-- TRANSLATE (R140). -/
theorem translateBody_alike (h : e.codes = d.codes) :
    ∃ r ds, translateBody d = .ok (endTranslate r ds d) ∧ translateBody e = .ok (endTranslate r ds e) := by
  obtain ⟨r, ds, hd, he⟩ := translateLoop_alike h segments []
  exact ⟨r, ds, by rw [translateBody, hd], by rw [translateBody, he]⟩

/-! ## RUN's later phases -/

/-- MEASURE, ASSEMBLE and TRANSLATE one after another from `d`, each completing (R153). -/
structure LaterPhases (d d₂ d₃ d₄ : Datapath) : Prop where
  measure   : measureBody d = .ok d₂
  assemble  : assembleBody d₂ = .ok d₃
  translate : translateBody d₃ = .ok d₄

/-- RUN where each of its phases completes (R153, R154). -/
theorem LaterPhases.run {d d₁ d₂ d₃ d₄ : Datapath} (h : LaterPhases d₁ d₂ d₃ d₄) (unpack : unpackBody d = .ok d₁) :
    runBody d = .ok d₄ := by
  simp only [runBody, bodyThen, unpack, h.measure, h.assemble, h.translate]

/-- A change `f` of what MEASURE, ASSEMBLE and TRANSLATE neither read nor write. -/
structure Unseen (f : Datapath → Datapath) : Prop where
  view       : ∀ d, SameView d (f d)
  width      : ∀ d, widthOk (f d) = widthOk d
  cursor     : ∀ d, (f d).cursor = d.cursor
  modw       : ∀ d, (f d).modw = d.modw
  offset     : ∀ d, (f d).offset = d.offset
  codes      : ∀ d, (f d).codes = d.codes
  measured   : ∀ p n k d, measured p n k (f d) = f (measured p n k d)
  assembled  : ∀ vs c o n d, assembled vs c o n (f d) = f (assembled vs c o n d)
  translated : ∀ r ds d, endTranslate r ds (f d) = f (endTranslate r ds d)

/-- The later phases complete where the width check passes, keep the port's trace, and do the same whatever is
changed that they do not see (R153). -/
theorem laterPhases_unseen {f : Datapath → Datapath} (hf : Unseen f) {d : Datapath} (hw : widthOk d = true) :
    ∃ d₂ d₃ d₄, LaterPhases d d₂ d₃ d₄ ∧ LaterPhases (f d) (f d₂) (f d₃) (f d₄) ∧ d₄.pixReads = d.pixReads := by
  obtain ⟨p, n, k, measure, measure'⟩ := measureBody_alike (hf.view d) hw ((hf.width d).trans hw)
  rw [hf.measured] at measure'
  have hw₂ : widthOk (measured p n k d) = true := hw
  generalize hd₂ : measured p n k d = d₂ at measure measure' hw₂
  obtain ⟨vs, c, o, m, -, assemble, assemble'⟩ := assembleBody_alike (hf.view d₂) hw₂ ((hf.width d₂).trans hw₂)
    (hf.cursor d₂) (hf.modw d₂) (hf.offset d₂)
  rw [hf.assembled] at assemble'
  generalize hd₃ : assembled vs c o m d₂ = d₃ at assemble assemble'
  obtain ⟨r, ds, translate, translate'⟩ := translateBody_alike (hf.codes d₃)
  rw [hf.translated] at translate'
  refine ⟨d₂, d₃, _, ⟨measure, assemble, translate⟩, ⟨measure', assemble', translate'⟩, ?_⟩
  subst hd₂ hd₃
  rfl

/-! ## Another pixel memory -/

/-- `d` with pixel memory `mem` in place of its own. -/
def withMem (mem : Memory) (d : Datapath) : Datapath := { d with mem := mem }

/-- The end of a body, `f` applied to the datapath it leaves. -/
def mapEnd (f : Datapath → Datapath) : Except Datapath Datapath → Except Datapath Datapath
  | .ok d => .ok (f d)
  | .error d => .error (f d)

theorem bodyEnd_mapEnd (f : Datapath → Datapath) (r : Except Datapath Datapath) :
    bodyEnd (mapEnd f r) = f (bodyEnd r) := by
  cases r <;> rfl

/-- The pixel bytes `[j, j + rem)` of the row that starts at `ROWADDR` are the same in `mem` as in `d` (R61). -/
def SameBytes (mem : Memory) (d : Datapath) (j rem : Nat) : Prop :=
  ∀ i, j ≤ i → i < j + rem → sparseGet mem (d.rowaddr + BitVec.ofNat 32 i).toNat =
    sparseGet d.mem (d.rowaddr + BitVec.ofNat 32 i).toNat

variable {mem : Memory}

/-- `MemRead` reads pixel memory at its own address alone (R62). -/
theorem memRead_withMem {a : Word} (h : sparseGet mem a.toNat = sparseGet d.mem a.toNat) :
    memRead false a (withMem mem d) = ((memRead false a d).1, withMem mem (memRead false a d).2) := by
  simp only [memRead, withMem, h]
  cases pixelError d.errs a with
  | true => rfl
  | false => cases sparseGet d.mem a.toNat <;> rfl

/-- The cells of a byte do not depend on pixel memory (R103). -/
theorem storeByte_withMem (j : Nat) (b : Byte) (d : Datapath) :
    storeByte j b (withMem mem d) = withMem mem (storeByte j b d) := by
  refine List.foldl_hom (withMem mem) fun d t => ?_
  by_cases h : 8 * j + t < scanWidth d
  · rw [storeBit, storeBit, if_pos h, if_pos (show 8 * j + t < scanWidth (withMem mem d) from h)]
    rfl
  · rw [storeBit, storeBit, if_neg h, if_neg (show ¬ 8 * j + t < scanWidth (withMem mem d) from h)]

/-- A turn of the byte loop reads its own byte alone (R103). -/
theorem unpackByte_withMem {j : Nat} (h : sparseGet mem (d.rowaddr + BitVec.ofNat 32 j).toNat =
    sparseGet d.mem (d.rowaddr + BitVec.ofNat 32 j).toNat) :
    unpackByte false j (withMem mem d) = mapEnd (withMem mem) (unpackByte false j d) := by
  have hread := memRead_withMem h
  simp only [unpackByte]
  rw [show (withMem mem d).rowaddr = d.rowaddr from rfl, hread]
  rcases memRead false (d.rowaddr + BitVec.ofNat 32 j) d with ⟨_ | b, d₁⟩
  · rfl
  · exact congrArg Except.ok (storeByte_withMem j b d₁)

/-- A turn of the byte loop leaves `ROWADDR` and pixel memory alone (R71). -/
theorem unpackByte_row {j : Nat} {d₁ : Datapath} (h : unpackByte false j d = .ok d₁) :
    d₁.rowaddr = d.rowaddr ∧ d₁.mem = d.mem := by
  rcases unpackByte_cases false j d with ⟨-, e⟩ | ⟨-, b, n, -, -, e⟩
  · rw [e] at h; cases h
  · obtain ⟨sl, hsl⟩ := storeByte_frame j b
      { d with pixReads := d.pixReads ++ [d.rowaddr + BitVec.ofNat 32 j], draws := n }
    rw [e, hsl] at h
    cases h
    exact ⟨rfl, rfl⟩

/-- The byte loop reads its own bytes alone (R61, R71). -/
theorem unpackLoop_withMem : ∀ (rem j : Nat) {d : Datapath}, SameBytes mem d j rem →
    unpackLoop rem j (withMem mem d) = mapEnd (withMem mem) (unpackLoop rem j d)
  | 0, _, _, _ => rfl
  | rem + 1, j, d, h => by
    simp only [unpackLoop, unpackByte_withMem (h j (Nat.le_refl j) (by omega))]
    cases e : unpackByte false j d with
    | error d₁ => rfl
    | ok d₁ =>
      obtain ⟨haddr, hmem⟩ := unpackByte_row e
      refine unpackLoop_withMem rem (j + 1) fun i hi hlt => ?_
      rw [haddr, hmem]
      exact h i (by omega) (by omega)

/-- UNPACK reads the pixel bytes of its row alone (R61, R103). -/
theorem unpackBody_withMem (h : ∀ j < pixelBytes d,
    sparseGet mem (rowByte d j).toNat = sparseGet d.mem (rowByte d j).toNat) :
    unpackBody (withMem mem d) = mapEnd (withMem mem) (unpackBody d) := by
  by_cases hi : imageOk d = true
  · rw [unpackBody, unpackBody, if_pos hi, if_pos (show imageOk (withMem mem d) = true from hi)]
    exact unpackLoop_withMem (pixelBytes d) 0 (d := selectRow d) fun i _ hlt => h i (by omega)
  · rw [unpackBody, unpackBody, if_neg hi, if_neg (show ¬ imageOk (withMem mem d) = true from hi)]
    rfl

/-- RUN's later phases do not see pixel memory (R71). -/
theorem withMem_unseen (mem : Memory) : Unseen (withMem mem) where
  view _ := ⟨rfl, rfl, fun _ _ => rfl⟩
  width _ := rfl
  cursor _ := rfl
  modw _ := rfl
  offset _ := rfl
  codes _ := rfl
  measured _ _ _ _ := rfl
  assembled _ _ _ _ _ := rfl
  translated _ _ _ := rfl

/-- RUN reads the pixel bytes of its row alone: no later phase reads pixel memory (R61, R153). -/
theorem runBody_withMem (h : ∀ j < pixelBytes d,
    sparseGet mem (rowByte d j).toNat = sparseGet d.mem (rowByte d j).toNat) :
    runBody (withMem mem d) = mapEnd (withMem mem) (runBody d) := by
  have unpack := unpackBody_withMem h
  cases e : unpackBody d with
  | error d₁ => simp only [runBody, bodyThen, unpack, e, mapEnd]
  | ok d₁ =>
    have hw : widthOk d₁ = true := by
      by_cases hi : imageOk d = true
      · exact unpackBody_widthOk hi e
      · simp [unpackBody, hi, raise] at e
    obtain ⟨d₂, d₃, d₄, phases, phases', -⟩ := laterPhases_unseen (withMem_unseen mem) hw
    rw [e] at unpack
    rw [phases'.run unpack, phases.run e]
    rfl

/-! ## RUN and its stages -/

/-- `d` as the next command finds it in its body: finished, and the next command accepted (R150, R151). -/
def restarted (d : Datapath) : Datapath := acceptFlags (finishFlags {} d)

/-- RUN's later phases see neither `DONE` nor the port's trace (R110, R153). -/
theorem restarted_unseen : Unseen restarted where
  view _ := ⟨rfl, rfl, fun _ _ => rfl⟩
  width _ := rfl
  cursor _ := rfl
  modw _ := rfl
  offset _ := rfl
  codes _ := rfl
  measured _ _ _ _ := rfl
  assembled _ _ _ _ _ := rfl
  translated _ _ _ := rfl

/-- A command on an idle undisturbed block whose body, from acceptance, ends in `d`. -/
theorem exec_instr_of_body {s : State} {op : Op} {d : Datapath} (h : Ready s)
    (hbody : op.body (acceptFlags s.dp) = .ok d) : exec op.instr s = .next { s with dp := finishFlags {} d } := by
  rw [exec_instr_ready op h, hbody, ← h.1]
  rfl

end Sys2Proof.Machine

namespace Sys2Proof.Proofs

open Sys2Proof.Machine

/-- Settles O12: UNPACK's loop reads the row's bytes alone, and RUN's later phases read no pixel memory. -/
theorem onlyRowBytesMatter : Obligations.OnlyRowBytesMatter := by
  intro s t op mem hop h hrow ht
  have body : op.body (withMem mem (acceptFlags s.dp)) = mapEnd (withMem mem) (op.body (acceptFlags s.dp)) := by
    rcases hop with rfl | rfl
    · exact unpackBody_withMem hrow
    · exact runBody_withMem hrow
  rw [exec_instr_ready op h] at ht
  cases ht
  have h' : Ready { s with dp := withMem mem s.dp } := h
  refine (exec_instr_ready op h').trans ?_
  rw [show acceptFlags (withMem mem s.dp) = withMem mem (acceptFlags s.dp) from rfl, body, bodyEnd_mapEnd]
  rfl

/-- Settles O28: a stage that begins where the one before has finished does not see the difference from RUN's
phase (`restarted_unseen`). -/
theorem runIsThePipeline : Obligations.RunIsThePipeline := by
  intro s h hi hrow
  obtain ⟨bytes, sl, draws, -, unpack⟩ := unpackBody_readable (d := acceptFlags s.dp) hi hrow
  have hw := unpackBody_widthOk (d := acceptFlags s.dp) hi unpack
  obtain ⟨d₂, d₃, d₄, phases, phases', hreads⟩ := laterPhases_unseen restarted_unseen hw
  refine ⟨_, _, _, _, exec_instr_of_body (op := .unpack) h unpack,
    exec_instr_of_body (op := .measure) h phases'.measure, exec_instr_of_body (op := .assemble) h phases'.assemble,
    exec_instr_of_body (op := .translate) h phases'.translate,
    (exec_instr_of_body (op := .run) h (phases.run unpack)).trans ?_⟩
  simp only [finishFlags_none, ← hreads]
  rfl

end Sys2Proof.Proofs
end

section
/-! PROOF. The sampler on a clean row: MEASURE finds the first bar, ASSEMBLE reads the colour of each module, and RUN
decodes the symbol (R112, R127, R203). -/

namespace Sys2Proof.Machine

variable {d : Datapath}

/-! ## MEASURE on written cells -/

/-- The margin skip passes the written light cells and stops at the dark one after them, or at its end (R112). -/
theorem skipLoop_run {k rem p : Nat} (hk : k ≤ rem) (hlight : ∀ i < k, sparseGet d.sl (p + i) = some light)
    (hstop : k < rem → sparseGet d.sl (p + k) = some dark) : skipLoop rem p d = (p + k, d) := by
  induction rem generalizing k p with
  | zero =>
    obtain rfl : k = 0 := by omega
    rfl
  | succ rem ih =>
    cases k with
    | zero => simp only [skipLoop, readCell_written (i := p) (hstop (Nat.succ_pos rem)), Nat.add_zero]
    | succ k =>
      have hrest : skipLoop rem (p + 1) d = (p + 1 + k, d) :=
        ih (by omega) (fun i hi => by rw [Nat.add_right_comm]; exact hlight (i + 1) (by omega))
          (fun hlt => by rw [Nat.add_right_comm]; exact hstop (by omega))
      simp only [skipLoop, readCell_written (i := p) (hlight 0 (Nat.succ_pos k)), hrest, Nat.add_right_comm p 1 k,
        Nat.add_assoc]

/-- The width count passes the written dark cells and stops at the light one after them, or at its end (R112). -/
theorem countLoop_run {k rem p m : Nat} (hk : k ≤ rem) (hdark : ∀ i < k, sparseGet d.sl (p + (m + i)) = some dark)
    (hstop : k < rem → sparseGet d.sl (p + (m + k)) = some light) : countLoop rem p m d = (m + k, d) := by
  induction rem generalizing k m with
  | zero =>
    obtain rfl : k = 0 := by omega
    rfl
  | succ rem ih =>
    cases k with
    | zero => simp only [countLoop, readCell_written (i := p + m) (hstop (Nat.succ_pos rem)), Nat.add_zero]
    | succ k =>
      have hrest : countLoop rem p (m + 1) d = (m + 1 + k, d) :=
        ih (by omega) (fun i hi => by rw [Nat.add_right_comm]; exact hdark (i + 1) (by omega))
          (fun hlt => by rw [Nat.add_right_comm]; exact hstop (by omega))
      simp only [countLoop, readCell_written (i := p + m) (hdark 0 (Nat.succ_pos k)), hrest,
        Nat.add_right_comm m 1 k, Nat.add_assoc]

/-- MEASURE on a written row: `p` light cells, then `n` dark ones, then a light one or the end of the row (R112). -/
theorem measureBody_run {p n : Nat} (hw : widthOk d = true) (hpn : p + n ≤ scanWidth d)
    (hlight : ∀ i < p, sparseGet d.sl i = some light)
    (hdark : ∀ i < n, sparseGet d.sl (p + i) = some dark) (hbar : p < scanWidth d → 0 < n)
    (hstop : p + n < scanWidth d → sparseGet d.sl (p + n) = some light) :
    measureBody d = .ok (endMeasure p n d) := by
  have skip : skipLoop (scanWidth d) 0 d = (p, d) := by
    have h := skipLoop_run (k := p) (rem := scanWidth d) (p := 0) (d := d) (by omega)
      (fun i hi => by rw [Nat.zero_add]; exact hlight i hi)
      (fun hp => by rw [Nat.zero_add]; exact hdark 0 (hbar hp))
    rwa [Nat.zero_add] at h
  have hfirst : firstDark p d ≤ n := by
    simp only [firstDark]
    split
    · next hp => exact hbar hp
    · exact Nat.zero_le n
  have count : countLoop (scanWidth d - p - firstDark p d) p (firstDark p d) d = (n, d) := by
    have h := countLoop_run (k := n - firstDark p d) (rem := scanWidth d - p - firstDark p d) (p := p)
      (m := firstDark p d) (d := d) (by omega) (fun i hi => hdark _ (by omega))
      (fun hlt => by rw [Nat.add_sub_cancel' hfirst]; exact hstop (by omega))
    rwa [Nat.add_sub_cancel' hfirst] at h
  simp only [measureBody, hw, if_true, skip, count]

/-! ## ASSEMBLE on a clean symbol -/

/-- Where the two samples of a span are in the row, written and alike, `Classify` gives their colour with no vote
(R115, R116). -/
theorem classifySpan_agree {buf bw off : Nat} {c : Colour} (hoff : off < buf + bw) (hbuf : buf < scanWidth d)
    (hfar : buf + bw - off ≤ scanWidth d) (hstart : sparseGet d.sl buf = some c)
    (hend : sparseGet d.sl (buf + bw - off - 1) = some c) : classifySpan buf bw off d = (c, d) := by
  have hindex : farIndex buf bw off = ((buf + bw - off - 1 : Nat) : Int) := by
    simp only [farIndex]
    omega
  have hfar' : buf + bw - off - 1 < scanWidth d := by omega
  simp only [classifySpan, slRead_written hbuf hstart, hindex, slRead_written hfar' hend, if_true]

/-- The colour of each module of a clean symbol (R118, R127). -/
theorem classifySpan_symbol {modules : Nat → Colour} (h : HoldsSymbol d modules)
    (hoff : d.offset.toNat + 1 ≤ d.modw.toNat) {q : Nat} (hq : q < 67) :
    classifySpan (d.cursor.toNat + q * d.modw.toNat) d.modw.toNat d.offset.toNat d = (modules q, d) := by
  obtain ⟨hfit, hcells⟩ := h
  have hend : q * d.modw.toNat + d.modw.toNat ≤ 67 * d.modw.toNat := by
    rw [← Nat.succ_mul]
    exact Nat.mul_le_mul_right _ hq
  refine classifySpan_agree (by omega) (by omega) (by omega) (hcells q hq 0 (by omega)) ?_
  have hlast := hcells q hq (d.modw.toNat - d.offset.toNat - 1) (by omega)
  rwa [show d.cursor.toNat + q * d.modw.toNat + (d.modw.toNat - d.offset.toNat - 1) =
    d.cursor.toNat + q * d.modw.toNat + d.modw.toNat - d.offset.toNat - 1 by omega] at hlast

/-- A symbol's modules and their row end where a cursor of 32 bits still counts (R129). -/
theorem HoldsSymbol.cursor_toNat {modules : Nat → Colour} (h : HoldsSymbol d modules) {q : Nat} (hq : q ≤ 67) :
    (BitVec.ofNat 32 (d.cursor.toNat + q * d.modw.toNat)).toNat = d.cursor.toNat + q * d.modw.toNat := by
  have hfit := h.1
  have hw := BitVec.toInt_lt (x := d.width)
  have hmul : q * d.modw.toNat ≤ 67 * d.modw.toNat := Nat.mul_le_mul_right _ hq
  rw [BitVec.toNat_ofNat, Nat.mod_eq_of_lt]
  simp only [scanWidth] at hfit
  omega

/-- The cursor after one module more (R126). -/
theorem cursor_next (c q : Nat) (bw : Word) :
    BitVec.ofNat 32 (c + q * bw.toNat) + bw = BitVec.ofNat 32 (c + (q + 1) * bw.toNat) := by
  apply BitVec.eq_of_toNat_eq
  simp only [BitVec.toNat_add, BitVec.toNat_ofNat, Nat.succ_mul]
  omega

/-- The accumulator after the modules `[start, start + n)`, from `acc` on (R126). -/
def accumulate (modules : Nat → Colour) (start n : Nat) (acc : Code) : Code :=
  (List.range' start n).foldl (fun acc q => shiftIn acc (modules q)) acc

/-- The modules of a clean symbol from `start` on: their colours are shifted in, and nothing else changes
(R126, R127). -/
theorem sampleModules_symbol {modules : Nat → Colour} (h : HoldsSymbol d modules)
    (hoff : d.offset.toNat + 1 ≤ d.modw.toNat) : ∀ (n start : Nat) (acc : Code), start + n ≤ 67 →
    sampleModules d.modw d.offset.toNat n acc (BitVec.ofNat 32 (d.cursor.toNat + start * d.modw.toNat)) d =
      ((accumulate modules start n acc, BitVec.ofNat 32 (d.cursor.toNat + (start + n) * d.modw.toNat)), d)
  | 0, _, _, _ => rfl
  | n + 1, start, acc, hn => by
    have hrest := sampleModules_symbol h hoff n (start + 1) (shiftIn acc (modules start)) (by omega)
    simp only [sampleModules, h.cursor_toNat (show start ≤ 67 by omega),
      classifySpan_symbol h hoff (show start < 67 by omega), cursor_next, hrest, accumulate, List.range'_succ,
      List.foldl_cons, Nat.add_assoc, Nat.add_comm 1 n]

/-- A code and one module more, as a number (R12, R126). -/
theorem shiftIn_ofNat (n : Nat) (c : Colour) :
    shiftIn (BitVec.ofNat 7 n) c = BitVec.ofNat 7 (2 * n + if c then 1 else 0) := by
  apply BitVec.eq_of_toNat_eq
  cases c <;> simp [shiftIn, BitVec.toNat_add, BitVec.toNat_shiftLeft, Nat.shiftLeft_eq] <;> omega

/-- The code of one module more (R12, R17). -/
theorem codeOf_succ (modules : Nat → Colour) (start n : Nat) :
    codeOf modules start (n + 1) = shiftIn (codeOf modules start n) (modules (start + n)) := by
  have hdouble : ∀ m ∈ List.range n, (if modules (start + m) then 2 ^ (n + 1 - 1 - m) else 0) =
      2 * (if modules (start + m) then 2 ^ (n - 1 - m) else 0) := by
    intro m hm
    have hpow : n + 1 - 1 - m = (n - 1 - m) + 1 := by
      have := List.mem_range.1 hm
      omega
    rw [hpow, pow_succ, Nat.mul_comm _ 2]
    split <;> rfl
  rw [codeOf, codeOf, shiftIn_ofNat, List.range_succ, List.map_append, List.sum_append, List.map_congr_left hdouble,
    List.sum_map_mul_left]
  simp

/-- Shifting in the modules of a segment makes up its code (R126). -/
theorem accumulate_eq_codeOf (modules : Nat → Colour) (start n : Nat) :
    accumulate modules start n 0 = codeOf modules start n := by
  induction n with
  | zero => rfl
  | succ n ih => rw [codeOf_succ, ← ih, accumulate, List.range'_1_concat, List.foldl_append]; rfl

/-- The segment after one begins where it ends, and the last ends after 67 modules (R125). -/
theorem segStart_next : ∀ k : Fin 11, segStart k + segLen k ≤ 67 ∧ segLen k = segCount k ∧
    (nextSegment k = none → segStart k + segLen k = 67) ∧
    ∀ k', nextSegment k = some k' → segStart k + segLen k = segStart k' := by decide

/-- The codes of a clean symbol, each with its segment (R125, R127). -/
def symbolStores (modules : Nat → Colour) (ks : List (Fin 11)) : List (Fin 11 × Code) :=
  ks.map fun k => (k, codeOf modules (segStart k) (segCount k))

/-- One segment of a clean symbol (R126, R127). -/
theorem sampleModules_segment {modules : Nat → Colour} (h : HoldsSymbol d modules)
    (hoff : d.offset.toNat + 1 ≤ d.modw.toNat) (k : Fin 11) :
    sampleModules d.modw d.offset.toNat (segLen k) 0
        (BitVec.ofNat 32 (d.cursor.toNat + segStart k * d.modw.toNat)) d =
      ((codeOf modules (segStart k) (segCount k),
        BitVec.ofNat 32 (d.cursor.toNat + (segStart k + segLen k) * d.modw.toNat)), d) := by
  obtain ⟨hle, hlen, -⟩ := segStart_next k
  rw [sampleModules_symbol h hoff _ _ _ hle, accumulate_eq_codeOf, hlen]

/-- The segments of a clean symbol from `k` on (R126, R127). -/
theorem sampleSegments_symbol {modules : Nat → Colour} : ∀ (ks : List (Fin 11)) (k : Fin 11) {d : Datapath},
    segmentsFrom (nextSegment k) = ks → HoldsSymbol d modules → d.offset.toNat + 1 ≤ d.modw.toNat →
    sampleSegments d.modw d.offset.toNat (k :: ks)
        (BitVec.ofNat 32 (d.cursor.toNat + segStart k * d.modw.toNat)) d =
      (BitVec.ofNat 32 (d.cursor.toNat + 67 * d.modw.toNat),
        { d with codes := storeCodes (symbolStores modules (k :: ks)) d.codes }) := by
  intro ks
  induction ks with
  | nil =>
    intro k d hks h hoff
    obtain ⟨-, -, hlast, -⟩ := segStart_next k
    simp only [sampleSegments, sampleModules_segment h hoff, hlast (eq_none_of_segmentsFrom hks)]
    rfl
  | cons k' ks ih =>
    intro k d hks h hoff
    obtain ⟨hk, hks'⟩ := eq_some_of_segmentsFrom hks
    obtain ⟨-, -, -, hnext⟩ := segStart_next k
    rw [sampleSegments, sampleModules_segment h hoff, hnext k' hk]
    exact ih k' (d := setCode k _ d) hks' h hoff

/-- A code stored is held, and the others stay (R42). -/
theorem storeCodes_getElem (v : Fin 11 → Code) (j : Fin 11) : ∀ (ks : List (Fin 11)) (cs : Vector Code 11),
    (storeCodes (ks.map fun k => (k, v k)) cs)[j] = if j ∈ ks then v j else cs[j] := by
  intro ks
  induction ks with
  | nil => intro cs; simp [storeCodes]
  | cons k ks ih =>
    intro cs
    refine (ih (cs.set k (v k))).trans ?_
    by_cases hj : j ∈ ks
    · simp [hj]
    · by_cases hk : j = k
      · subst hk; simp [hj]
      · have hne : k.val ≠ j.val := fun h => hk (Fin.ext h.symm)
        simp [hj, hk, Vector.getElem_set_ne _ _ hne]

/-- ASSEMBLE stores the code of every segment (R126). -/
theorem storeCodes_symbol (modules : Nat → Colour) (cs : Vector Code 11) :
    storeCodes (symbolStores modules segments) cs = codesOf modules := by
  have hall : ∀ j : Fin 11, j ∈ segments := by decide
  refine Vector.ext fun i hi => ?_
  have h := storeCodes_getElem (fun k => codeOf modules (segStart k) (segCount k)) ⟨i, hi⟩ segments cs
  rw [if_pos (hall _)] at h
  simpa [codesOf, symbolStores] using h

/-- ASSEMBLE on a clean symbol (R127). -/
theorem assembleBody_symbol {modules : Nat → Colour} (hw : widthOk d = true) (h : HoldsSymbol d modules)
    (hoff : d.offset.toNat + 1 ≤ d.modw.toNat) :
    assembleBody d = .ok { d with
      codes := codesOf modules, cursor := BitVec.ofNat 32 (d.cursor.toNat + 67 * d.modw.toNat) } := by
  have hsegments : segments = 0 :: segmentsFrom (nextSegment 0) := by decide
  have hstart : d.cursor = BitVec.ofNat 32 (d.cursor.toNat + segStart 0 * d.modw.toNat) := by
    simp [segStart]
  have sampled := sampleSegments_symbol (segmentsFrom (nextSegment 0)) 0 rfl h hoff
  rw [← hstart, ← hsegments, storeCodes_symbol] at sampled
  simp only [assembleBody, hw, if_true, sampled]

/-! ## RUN on a clean image -/

/-- The start guard, dark, light, dark, bounds the first bar (R135). -/
theorem startGuard_modules {modules : Nat → Colour} (h : codeOf modules 0 3 = startGuard) :
    modules 0 = dark ∧ modules 1 = light := by
  have hempty : codeOf modules 0 0 = 0 := rfl
  simp only [codeOf_succ, Nat.zero_add, hempty] at h
  revert h
  generalize modules 0 = a, modules 1 = b, modules 2 = c
  revert a b c
  decide

/-- UNPACK of a row whose bytes were all written: no draw, and the cells are the row's pixels (R64, R103). -/
theorem unpackBody_written {bytes : Nat → Byte} (hi : imageOk d = true) (h : RowHolds d (pixelBytes d) bytes) :
    ∃ sl, unpackBody d = .ok (readRow d (pixelBytes d) sl d.draws) ∧
      ∀ x, sparseGet sl x = if x < scanWidth d then some (rowPixel bytes x) else sparseGet d.sl x := by
  obtain ⟨bytes', sl, draws, hread, e⟩ := unpackBody_readable hi fun j hj => (h j hj).1
  obtain ⟨rfl, hbytes⟩ := hread.bytes_eq h
  refine ⟨sl, e, fun x => ?_⟩
  rw [hread.row]
  split
  · next hx =>
    have hle := scanWidth_le_pixelBytes d
    rw [rowPixel, rowPixel, hbytes (x / 8) (by omega)]
  · rfl

/-- The cells `[0, W)` hold, from `q` on, 67 modules of `B` pixels each, with light pixels before them
(R203, R206). -/
structure CleanRow (d : Datapath) (modules : Nat → Colour) (q B : Nat) : Prop where
  fits    : q + 67 * B ≤ scanWidth d
  margin  : ∀ x < q, sparseGet d.sl x = some light
  modules : ∀ m < 67, ∀ t < B, sparseGet d.sl (q + m * B + t) = some (modules m)

/-- MEASURE on a clean row finds the first bar of the start guard (R112, R135). -/
theorem measureBody_clean {modules : Nat → Colour} {q B : Nat} (hw : widthOk d = true) (h : CleanRow d modules q B)
    (hB : 0 < B) (hguard : codeOf modules 0 3 = startGuard) : measureBody d = .ok (endMeasure q B d) := by
  obtain ⟨hfirst, hsecond⟩ := startGuard_modules hguard
  have hfits := h.fits
  refine measureBody_run hw (by omega) h.margin (fun i hi => ?_) (fun _ => hB) (fun _ => ?_)
  · have hcell := h.modules 0 (by decide) i hi
    rwa [Nat.zero_mul, Nat.add_zero, hfirst] at hcell
  · have hcell := h.modules 1 (by decide) 0 hB
    rwa [Nat.one_mul, Nat.add_zero, hsecond] at hcell

/-- A count of pixels of the row is a register value (R36, R37). -/
theorem ofNat_toNat_of_le_scanWidth {n : Nat} (h : n ≤ scanWidth d) : (BitVec.ofNat 32 n).toNat = n := by
  have hw := BitVec.toInt_lt (x := d.width)
  rw [BitVec.toNat_ofNat, Nat.mod_eq_of_lt]
  simp only [scanWidth] at h
  omega

/-- After MEASURE on a clean row the cursor and `MODW` are those of the symbol (R127, R206). -/
theorem CleanRow.holdsSymbol {modules : Nat → Colour} {q B : Nat} (h : CleanRow d modules q B) :
    (endMeasure q B d).cursor.toNat = q ∧ (endMeasure q B d).modw.toNat = B ∧
      HoldsSymbol (endMeasure q B d) modules := by
  have hfits := h.fits
  have hq : (BitVec.ofNat 32 q).toNat = q := ofNat_toNat_of_le_scanWidth (d := d) (by omega)
  have hB : (BitVec.ofNat 32 B).toNat = B := ofNat_toNat_of_le_scanWidth (d := d) (by omega)
  refine ⟨hq, hB, ?_⟩
  simp only [HoldsSymbol, endMeasure_cursor, endMeasure_modw, endMeasure_sl, hq, hB]
  exact ⟨hfits, h.modules⟩

/-- RUN's later phases on a clean row with the symbol of `ds` decode `ds` (R127, R140, R203). -/
theorem laterPhases_clean {modules : Nat → Colour} {ds : Vector (Fin 10) 8} {q B : Nat} (hw : widthOk d = true)
    (h : CleanRow d modules q B) (hoff : d.offset.toNat + 1 ≤ B) (hcodes : codesOf modules = symbolCodes ds) :
    ∃ d₂ d₃, LaterPhases d d₂ d₃ { d with
      cursor := BitVec.ofNat 32 (q + 67 * B)
      modw := BitVec.ofNat 32 B
      codes := symbolCodes ds
      result := .ok
      digits := packDigits ds.toList
      status := { d.status with nobar := false } } := by
  obtain ⟨hq, hB, hsymbol⟩ := h.holdsSymbol
  have hguard : codeOf modules 0 3 = startGuard := by
    have hcode := congrArg (fun cs : Vector Code 11 => cs[0]) hcodes
    simpa [codesOf, symbolCodes, segStart, segCount] using hcode
  have assemble := assembleBody_symbol (d := endMeasure q B d) hw hsymbol (by rwa [hB])
  rw [hcodes, hq, hB] at assemble
  have hnobar : noBar B = false := by simp only [noBar, beq_eq_false_iff_ne]; omega
  refine ⟨_, _, measureBody_clean hw h (by omega) hguard, assemble, ?_⟩
  rw [translateBody, translateLoop_symbolCodes rfl, endMeasure, hnobar]
  rfl

end Sys2Proof.Machine

namespace Sys2Proof.Proofs

open Sys2Proof.Machine

/-- Settles O30: UNPACK lays the row's pixels in the scanline (`unpackBody_written`), and the later phases decode
them (`laterPhases_clean`). -/
theorem runDecodesCleanImage : Obligations.RunDecodesCleanImage := by
  intro s bytes ds modules q B h hi hrow hcodes hoff hfits hmargin hmodules
  obtain ⟨sl, unpack, hcells⟩ := unpackBody_written (d := acceptFlags s.dp) hi hrow
  have hcell {x : Nat} (hx : x < scanWidth s.dp) : sparseGet sl x = some (rowPixel bytes x) :=
    (hcells x).trans (if_pos hx)
  have clean : CleanRow (readRow (acceptFlags s.dp) (pixelBytes s.dp) sl s.dp.draws) modules q B := by
    refine ⟨hfits, fun x hx => ?_, fun m hm t ht => ?_⟩
    · exact (hcell (by omega)).trans (congrArg some (hmargin x hx))
    · have hend : m * B + B ≤ 67 * B := by
        rw [← Nat.succ_mul]
        exact Nat.mul_le_mul_right _ hm
      exact (hcell (by omega)).trans (congrArg some (hmodules m hm t ht))
  have hw := unpackBody_widthOk (d := acceptFlags s.dp) hi unpack
  obtain ⟨d₂, d₃, phases⟩ := laterPhases_clean hw clean hoff hcodes
  exact ⟨sl, hcells, exec_instr_of_body (op := .run) h (phases.run unpack)⟩

end Sys2Proof.Proofs
end

section
/-! PROOF. Decoding and encoding of command words: RSV and OP make up a word, each word is the code of what it
decodes to; what an illegal word does, idle and busy (R85 to R91). -/

namespace Sys2Proof

/-! ## The two fields of a command word -/

/-- Every word is its RSV on top of its OP (R85). -/
theorem word_fields (v : Word) : v = v.extractLsb' 4 28 ++ v.extractLsb' 0 4 := by
  rw [BitVec.extractLsb'_append_extractLsb'_eq_extractLsb' (show 4 = 0 + 4 from rfl)]
  exact BitVec.extractLsb'_eq_self.symm

/-- The field RSV, bits [31:4] (R85). -/
theorem rsv_append (rsv : BitVec 28) (op : BitVec 4) : (rsv ++ op : Word).extractLsb' 4 28 = rsv :=
  BitVec.extractLsb'_append_eq_left

/-- The field OP, bits [3:0] (R85). -/
theorem op_append (rsv : BitVec 28) (op : BitVec 4) : (rsv ++ op : Word).extractLsb' 0 4 = op :=
  BitVec.extractLsb'_append_eq_right

/-- A word with RSV 0 is one of the sixteen words of the opcode map (R89). -/
theorem word_of_rsv_zero {v : Word} (h : v.extractLsb' 4 28 = 0) : ∃ op : BitVec 4, v = (0 : BitVec 28) ++ op :=
  ⟨v.extractLsb' 0 4, h ▸ word_fields v⟩

/-! ## Decoding and encoding -/

/-- With RSV not 0 the word is reserved whatever OP holds, and both fields are kept (R89, R91). -/
theorem decodeWord_of_rsv {v : Word} (h : v.extractLsb' 4 28 ≠ 0) :
    decodeWord v = .reservedRsv (v.extractLsb' 0 4) (v.extractLsb' 4 28) :=
  if_pos h

/-- The word of a well-formed instruction decodes to it: the row "RSV != 0" by its nonzero RSV, the rows of the
opcode map by evaluation (R86, R89). -/
theorem decodeWord_encodeWord {i : Instr} (h : i.wellFormed = true) : decodeWord (encodeWord i) = i := by
  cases i with
  | reservedRsv op rsv =>
    have hrsv : (rsv ++ op : Word).extractLsb' 4 28 ≠ 0 := by simpa [rsv_append, Instr.wellFormed] using h
    rw [encodeWord, decodeWord_of_rsv hrsv, rsv_append, op_append]
  | reservedOp8F low => revert low; decide
  | _ => rfl

/-- Every word decodes to a well-formed instruction whose word it is (R89). -/
theorem encodeWord_decodeWord (v : Word) :
    (decodeWord v).wellFormed = true ∧ encodeWord (decodeWord v) = v := by
  by_cases h : v.extractLsb' 4 28 = 0
  · obtain ⟨op, rfl⟩ := word_of_rsv_zero h
    clear h
    revert op
    decide
  · rw [decodeWord_of_rsv h]
    exact ⟨bne_iff_ne.2 h, (word_fields v).symm⟩

end Sys2Proof

namespace Sys2Proof.Machine

/-! ## Illegal words -/

/-- All illegal instructions have one meaning (R90, R91). -/
theorem exec_illegal {i : Instr} (h : i.illegal = true) (s : State) : exec i s = illegalCommand s := by
  cases i with
  | reservedOp0 => rfl
  | reservedOp8F low => rfl
  | reservedRsv op rsv => rfl
  | _ => cases h

/-- An idle block takes an illegal word by setting two flags (R90). -/
theorem illegalCommand_idle {s : State} (hs : s.seq = .idle) : illegalCommand s = .next { s with
    dp := { s.dp with status := { s.dp.status with illcmd := true, done := true } } } := by
  simp only [illegalCommand, hs]

/-- A write that lands in a busy period is dropped, but to `STATUS` (R200 (a)). -/
theorem step_busy_write {s : State} {op : Op} {pos : Pos} {hz : Hazard} {off : BitVec 23} {v : Word}
    {rest : List Turn} (hs : s.seq = .busy op pos hz) (hoff : off.toNat % 4 = 0)
    (hstatus : regAt s.dp.scanMax off ≠ .status) (hh : s.host = ⟨.after 0, .port off 4 (.write v)⟩ :: rest) :
    step s = .next { busyWrite { s with host := rest } with resp := .written } := by
  rw [step_busy_port hs hh]
  simp only [portBusy, shapeOk_aligned hoff, if_true, if_neg hstatus]

end Sys2Proof.Machine

namespace Sys2Proof.Proofs

open Sys2Proof.Machine

/-- Settles O2: the bytes of a word decode as that word, and `decodeWord_encodeWord`. -/
theorem decodeOfEncode : Obligations.DecodeOfEncode := by
  intro i h
  rw [encode, decode_bytesOfWord, decodeWord_encodeWord h]

/-- Settles O3: the lanes of a word are the word, and both fields of a word are kept. -/
theorem encodeOfDecode : Obligations.EncodeOfDecode :=
  fun v => ⟨decode_bytesOfWord v, encodeWord_decodeWord v⟩

/-- Settles O4: RSV not 0 has its own row; with RSV 0 the sixteen values of OP are gone through. -/
theorem decodeFollowsOpcodeMap : Obligations.DecodeFollowsOpcodeMap := by
  refine fun v => ⟨fun h => by rw [decodeWord_of_rsv h]; rfl, fun h => ?_⟩
  obtain ⟨op, rfl⟩ := word_of_rsv_zero h
  clear h
  rw [op_append]
  revert op
  decide

/-- Settles O34: on an idle block the step runs the decoded word; in a busy period the write is dropped. -/
theorem illegalWordOnlySetsFlags : Obligations.IllegalWordOnlySetsFlags := by
  intro s m v rest hh hill
  constructor
  · intro hs
    rw [stepRunsDecodedCommand s m v rest _ hs hh (decode_bytesOfWord v), exec_illegal hill]
    exact illegalCommand_idle hs
  · rintro hbusy rfl
    cases hs : s.seq with
    | idle => exact absurd hs hbusy
    | busy op pos hz =>
      rw [← hs]
      exact step_busy_write hs rfl (by rw [regAt_cmd]; decide) hh

/-- Settles O35: each reserved row is illegal. -/
theorem reservedRowsAreIllegal : Obligations.ReservedRowsAreIllegal := by
  intro s i hs hrow
  have hill : i.illegal = true := by
    obtain rfl | ⟨low, rfl⟩ | ⟨op, rsv, rfl⟩ := hrow <;> rfl
  rw [exec_illegal hill, illegalCommand_idle hs]

/-- Settles O38, by `exec_next`. -/
theorem everyCommandHasNextState : Obligations.EveryCommandHasNextState := by
  intro i s
  obtain ⟨t, ht, -⟩ := exec_next i s
  exact ⟨t, ht⟩

end Sys2Proof.Proofs
end

section
/-! PROOF. The geometry of the selected row: the logical row lies inside the image, the stored row counts from
the end for a positive height, the stride is a number of whole 32-bit words and bounded, and the row address is
exact before its reduction (R100 to R102). -/

namespace Sys2Proof.Machine

variable {d : Datapath}

/-! ## The rows of an image -/

/-- A height that is not 0 has at least one row, so the selected logical row is one of them (R100). -/
theorem logicalRow_lt_natAbs_height (h : d.height ≠ 0) : logicalRow d < d.height.toInt.natAbs :=
  have hrows : 0 < d.height.toInt.natAbs :=
    Int.natAbs_pos.mpr fun h0 => h (BitVec.toInt_inj.mp (h0.trans BitVec.toInt_zero.symm))
  Nat.div_lt_self hrows Nat.one_lt_two

/-- The middle row of an odd number of rows has as many rows before it as after it, so both orientations
store it in the same place (R101). -/
theorem storedRow_of_odd {n : Nat} (h : d.height.toInt.natAbs = 2 * n + 1) : storedRow d = n := by
  rw [storedRow, logicalRow, h]
  split <;> omega

/-- For an even number of rows the two orientations differ by one stored row (R101). -/
theorem storedRow_of_even {n : Nat} (h : d.height.toInt.natAbs = 2 * n) :
    storedRow d = if 0 < d.height.toInt then n - 1 else n := by
  rw [storedRow, logicalRow, h]
  split <;> omega

/-! ## Stride and address -/

/-- The shifts of R102 are the division and the product by powers of two. -/
theorem stride_eq_mul_div (d : Datapath) : stride d = 4 * ((scanWidth d + 31) / 32) := by
  rw [stride, Nat.shiftLeft_eq, Nat.shiftRight_eq_div_pow, Nat.mul_comm]

/-- `SCAN_MAX` is at most `2^20` (R9). -/
theorem scanMax_le_two_pow (d : Datapath) : d.scanMax ≤ 2 ^ 20 := d.capPred.isLt

/-- A width that passes its check is at most `2^20`, which bounds the stride (R102). -/
theorem stride_le (h : widthOk d = true) : stride d ≤ 2 ^ 17 + 4 := by
  have hw : scanWidth d ≤ 2 ^ 20 := (scanWidth_le_scanMax h).trans (scanMax_le_two_pow d)
  rw [stride_eq_mul_div]
  omega

/-- The row address is the exact sum, reduced once (R102). -/
theorem rowAddress_toNat (d : Datapath) :
    (rowAddress d).toNat = (d.pixbase.toNat + storedRow d * stride d) % 2 ^ 32 :=
  BitVec.toNat_ofNat _ _

end Sys2Proof.Machine

namespace Sys2Proof.Proofs

open Sys2Proof.Machine

/-- Settles O9: the model's row, stride and address have these values by definition; the bounds and the clauses on
odd and even heights are the lemmas above. -/
theorem selectedRowGeometry : Obligations.SelectedRowGeometry := by
  intro d hw hh r s
  have hrow : r < d.height.toInt.natAbs := logicalRow_lt_natAbs_height hh
  have hs : storedRow d = s := rfl
  refine ⟨rfl, Nat.le_sub_one_of_lt hrow, ?one, hs, ?odd, ?even, stride_eq_mul_div d, stride_le hw,
    rowAddress_toNat d⟩
  case one => exact fun h => Nat.lt_one_iff.mp (h ▸ hrow)
  case odd => exact fun n h => hs ▸ storedRow_of_odd h
  case even => exact fun n h => hs ▸ storedRow_of_even h

end Sys2Proof.Proofs
end

section
/-! PROOF. The sampler's reads, counted and marked: what `SLRead` gives, when `Classify` sets `OOB` and how many values
it can draw, and its result on a written row (R110, R114 to R118, R191, R211). -/

namespace Sys2Proof.Machine

variable {d d₁ d₂ : Datapath} {px : List Colour}

/-! ## Reads and their marks -/

/-- `d'` is `d` after at most `k` reads of the sampler; `o` tells whether one of them set `OOB` (R110). -/
def ReadsWithin (k : Nat) (o : Bool) (d d' : Datapath) : Prop :=
  ∃ n, d.draws ≤ n ∧ n ≤ d.draws + k ∧ d' = sampled o n d

theorem ReadsWithin.refl (d : Datapath) : ReadsWithin 0 false d d :=
  ⟨d.draws, Nat.le_refl _, Nat.le_refl _, (sampled_self d).symm⟩

theorem ReadsWithin.trans {k l : Nat} {o o' : Bool} (h : ReadsWithin k o d d₁) (h' : ReadsWithin l o' d₁ d₂) :
    ReadsWithin (k + l) (o || o') d d₂ := by
  obtain ⟨n, hlo, hhi, rfl⟩ := h
  obtain ⟨n', hlo', hhi', rfl⟩ := h'
  refine ⟨n', Nat.le_trans hlo hlo', ?_, sampled_sampled o o' n n' d⟩
  simp only [sampled] at hhi'
  omega

theorem ReadsWithin.mono {k l : Nat} {o : Bool} (h : ReadsWithin k o d d₁) (hkl : k ≤ l) : ReadsWithin l o d d₁ := by
  obtain ⟨n, hlo, hhi, rfl⟩ := h
  exact ⟨n, hlo, by omega, rfl⟩

theorem ReadsWithin.width {k : Nat} {o : Bool} (h : ReadsWithin k o d d₁) : d₁.width = d.width := by
  obtain ⟨n, -, -, rfl⟩ := h
  rfl

/-! ## One read -/

/-- `SLRead` inside the row reads the cell (R110). -/
theorem slRead_inRow {i : Int} (h : InRow d i) : slRead i d = readCell i.toNat d := if_pos h

/-- A cell's value, or the next draw where nothing was written (R43, R191). -/
theorem readCell_eq (i : Nat) (d : Datapath) : readCell i d =
    ((sparseGet d.sl i).getD (Config.freeBit d.draws),
      { d with draws := if sparseGet d.sl i = none then d.draws + 1 else d.draws }) := by
  rcases readCell_cases i d with ⟨c, hc, h⟩ | ⟨hc, h⟩
  · simp only [h, hc, Option.getD_some, reduceCtorEq, if_false]
  · simp only [h, hc, Option.getD_none, if_true]

/-- `SLRead` is one read, and sets `OOB` outside the row alone (R110). -/
theorem slRead_reads (i : Int) (d : Datapath) :
    ∃ o, ReadsWithin 1 o d (slRead i d).2 ∧ (o = true ↔ ¬ InRow d i) := by
  by_cases h : InRow d i
  · obtain ⟨n, hlo, hhi, e⟩ := readCell_frame i.toNat d
    refine ⟨false, ⟨n, hlo, hhi, ?_⟩, by simpa using h⟩
    rw [slRead_inRow h, e, sampled, Bool.or_false]
  · refine ⟨true, ⟨d.draws + 1, Nat.le_succ _, Nat.le_refl _, ?_⟩, by simpa using h⟩
    rw [slRead_out h, sampled, Bool.or_true]

/-- `SLRead` inside a written row (R104, R110). -/
theorem HoldsPixels.slRead_eq (h : HoldsPixels d px) {i : Int} (hi : InRow d i) :
    slRead i d = (px.getD i.toNat dark, d) := by
  have hlt : i.toNat < px.length := by
    rw [h.1, scanWidth]
    obtain ⟨hlo, hhi⟩ := hi
    omega
  rw [slRead_inRow hi, readCell_written (h.2 i.toNat hlt), List.getD_eq_getElem _ _ hlt]

/-! ## The span of a classification -/

/-- What `Classify` reads at the start pixel, where it lies in the row (R115, R191). -/
def startSample (d : Datapath) (buf : Nat) : Colour := (sparseGet d.sl buf).getD (Config.freeBit d.draws)

/-- What `Classify` reads at the far sample after it, where both lie in the row (R115, R191). -/
def farSample (d : Datapath) (buf : Nat) : Colour :=
  (sparseGet d.sl (farCell d buf)).getD
    (Config.freeBit (if sparseGet d.sl buf = none then d.draws + 1 else d.draws))

/-- The reads of `Classify` at `buf` leave the row: those of the samples do, or the samples differ and the window
does (R110, R115). -/
def LeavesRow (d : Datapath) (buf : Nat) : Prop :=
  ¬ SamplesInRow d buf ∨ startSample d buf ≠ farSample d buf ∧ ¬ WindowInRow d buf

/-- A far sample in the row lies at its cell (R114). -/
theorem SamplesInRow.farIndex_eq {buf : Nat} (h : SamplesInRow d buf) :
    farIndex buf d.modw.toNat d.offset.toNat = (farCell d buf : Nat) := by
  obtain ⟨-, hlo, -⟩ := h
  simp only [farIndex, farCell]
  omega

/-- The two samples of `Classify`, where they lie in the row (R115). -/
theorem SamplesInRow.reads {buf : Nat} (h : SamplesInRow d buf) : (slRead buf d).1 = startSample d buf ∧
    (slRead (farIndex buf d.modw.toNat d.offset.toNat) (slRead buf d).2).1 = farSample d buf := by
  have hfar : InRow (slRead buf d).2 (farIndex buf d.modw.toNat d.offset.toNat) := by
    rw [slRead_inRow h.1, readCell_eq]
    exact h.2
  rw [slRead_inRow hfar, h.farIndex_eq, slRead_inRow h.1, readCell_eq, readCell_eq]
  exact ⟨rfl, rfl⟩

/-- The window ends at the far sample, so where that lies in the row the window leaves it below index 0 alone, and
there at its first pixel (R114, R116 (g)). -/
theorem SamplesInRow.not_windowInRow_iff {buf : Nat} (h : SamplesInRow d buf) :
    ¬ WindowInRow d buf ↔ 0 < d.modw.toNat ∧ windowIndex buf d.offset.toNat 0 < 0 := by
  obtain ⟨-, -, hhi⟩ := h
  simp only [windowIndex]
  constructor
  · intro hw
    by_contra hfirst
    refine hw fun k hk => ?_
    simp only [InRow]
    omega
  · rintro ⟨hpos, hneg⟩ hw
    have hfirst := (hw 0 hpos).1
    omega

/-- With both samples in the row, only the window of samples that differ can leave it (R115). -/
theorem SamplesInRow.leavesRow_iff {buf : Nat} (h : SamplesInRow d buf) :
    LeavesRow d buf ↔ startSample d buf ≠ farSample d buf ∧ ¬ WindowInRow d buf := by
  simp only [LeavesRow, h, not_true, false_or]

/-! ## The vote and `Classify` on any row -/

/-- The vote reads each window pixel once at most. Where the window ends in the row, it sets `OOB` exactly when it
begins below index 0, since its first pixel is read before any majority (R115, R116 (g)). -/
theorem voteLoop_reads (buf bw off : Nat) : ∀ (rem k darks lights : Nat) (d : Datapath),
    ∃ o, ReadsWithin rem o d (voteLoop buf bw off rem k darks lights d).2 ∧
      (windowIndex buf off (k + rem) ≤ d.width.toInt → (o = true ↔ 0 < rem ∧ windowIndex buf off k < 0))
  | 0, _, _, _, d => ⟨false, .refl d, by simp⟩
  | rem + 1, k, darks, lights, d => by
    obtain ⟨o, hread, ho⟩ := slRead_reads (windowIndex buf off k) d
    have hfirst (hend : windowIndex buf off (k + (rem + 1)) ≤ d.width.toInt) :
        o = true ↔ 0 < rem + 1 ∧ windowIndex buf off k < 0 := by
      rw [ho]
      simp only [InRow, windowIndex] at hend ⊢
      omega
    rw [← voteTurn_snd buf bw off k darks lights d] at hread
    simp only [voteLoop]
    rcases e : voteTurn buf bw off k darks lights d with ⟨c | ⟨x, y⟩, d'⟩ <;> rw [e] at hread
    case decided => exact ⟨o, hread.mono (by omega), hfirst⟩
    case counted =>
      obtain ⟨o', hrest, ho'⟩ := voteLoop_reads buf bw off rem (k + 1) x y d'
      refine ⟨o || o', (hread.trans hrest).mono (by omega), fun hend => ?_⟩
      rw [show d'.width = d.width from hread.width, show k + 1 + rem = k + (rem + 1) by omega] at ho'
      rw [Bool.or_eq_true, hfirst hend, ho' hend]
      simp only [windowIndex]
      omega

/-- `Classify` reads the two samples and each window pixel once at most, and sets `OOB` exactly when its reads leave
the row (R110, R115, R211). -/
theorem classifySpan_reads (d : Datapath) (buf : Nat) :
    ∃ o, ReadsWithin (2 + d.modw.toNat) o d (classifySpan buf d.modw.toNat d.offset.toNat d).2 ∧
      (o = true ↔ LeavesRow d buf) := by
  obtain ⟨o₁, hstart, ho₁⟩ := slRead_reads buf d
  obtain ⟨o₂, hfar, ho₂⟩ := slRead_reads (farIndex buf d.modw.toNat d.offset.toNat) (slRead buf d).2
  have hsamples : (o₁ || o₂) = true ↔ ¬ SamplesInRow d buf := by
    rw [Bool.or_eq_true, ho₁, ho₂, SamplesInRow, InRow, InRow, InRow, hstart.width]
    simp only [farIndex]
    omega
  have hboth := hstart.trans hfar
  simp only [classifySpan]
  split
  · next hab =>
    refine ⟨o₁ || o₂, hboth.mono (by omega), hsamples.trans ⟨.inl, fun hleave => ?_⟩⟩
    intro hin
    obtain ⟨ha, hb⟩ := hin.reads
    exact (hin.leavesRow_iff.1 hleave).1 (by rw [← ha, ← hb, hab])
  · next hab =>
    obtain ⟨o₃, hvote, ho₃⟩ := voteLoop_reads buf d.modw.toNat d.offset.toNat d.modw.toNat 0 0 0
      (slRead (farIndex buf d.modw.toNat d.offset.toNat) (slRead buf d).2).2
    refine ⟨o₁ || o₂ || o₃, hboth.trans hvote, ?_⟩
    rw [Bool.or_eq_true, hsamples]
    by_cases hin : SamplesInRow d buf
    · obtain ⟨ha, hb⟩ := hin.reads
      have hend : windowIndex buf d.offset.toNat (0 + d.modw.toNat) ≤ d.width.toInt := by
        obtain ⟨-, -, hhi⟩ := hin
        simp only [windowIndex]
        omega
      rw [ho₃ (by rwa [hboth.width]), ← hin.not_windowInRow_iff, hin.leavesRow_iff, ← ha, ← hb]
      simp only [hin, not_true, false_or, ne_eq, hab, not_false_eq_true, true_and]
    · simp only [LeavesRow, hin, not_false_eq_true, true_or]

/-! ## The vote and `Classify` on a written row -/

/-- The vote over window pixels `ws` that read as written, from counts with no strict majority: light exactly when
light has the strict majority in the end (R115, R116 (a), (b)). -/
theorem voteLoop_written {buf bw off : Nat} : ∀ (ws : List Colour) (k darks lights : Nat), darks ≤ bw / 2 →
    lights ≤ bw / 2 → darks + lights + ws.length = bw →
    (∀ i (h : i < ws.length), slRead (windowIndex buf off (k + i)) d = (ws[i], d)) →
    voteLoop buf bw off ws.length k darks lights d = (decide (bw / 2 < lights + ws.count light), d)
  | [], _, _, _, _, hl, _, _ => by
    rw [List.count_nil, Nat.add_zero, decide_eq_false (Nat.not_lt.2 hl)]
    rfl
  | w :: ws, k, darks, lights, hd, hl, hsum, hread => by
    have hfirst : slRead (windowIndex buf off k) d = (w, d) := hread 0 (Nat.succ_pos _)
    have hrest (i : Nat) (hi : i < ws.length) : slRead (windowIndex buf off (k + 1 + i)) d = (ws[i], d) := by
      rw [Nat.add_right_comm]
      exact hread (i + 1) (Nat.succ_lt_succ hi)
    have hcount := List.count_le_length (a := light) (l := ws)
    rw [List.length_cons] at hsum ⊢
    simp only [voteLoop, voteTurn_eq, hfirst]
    cases w with
    | false =>
      simp only [Bool.false_eq_true, if_false, List.count_cons_of_ne (show dark ≠ light by decide)]
      by_cases hdark : bw / 2 < darks + 1
      · simp only [if_pos hdark, decide_eq_false (show ¬ bw / 2 < lights + ws.count light by omega)]
      · simp only [if_neg hdark, if_neg (Nat.not_lt.2 hl)]
        exact voteLoop_written ws (k + 1) _ _ (by omega) hl (by omega) hrest
    | true =>
      simp only [if_true, if_neg (Nat.not_lt.2 hd), List.count_cons_self]
      by_cases hlight : bw / 2 < lights + 1
      · simp only [if_pos hlight, decide_eq_true (show bw / 2 < lights + (ws.count light + 1) by omega)]
      · simp only [if_neg hlight, Nat.add_comm (ws.count light) 1, ← Nat.add_assoc]
        exact voteLoop_written ws (k + 1) _ _ hd (by omega) (by omega) hrest

/-- The pixels of a window that lies in the row (R114). -/
theorem HoldsPixels.window (h : HoldsPixels d px) {buf : Nat} (hw : WindowInRow d buf) :
    ((px.drop (buf - d.offset.toNat)).take d.modw.toNat).length = d.modw.toNat ∧
    ∀ i (hi : i < ((px.drop (buf - d.offset.toNat)).take d.modw.toNat).length),
      slRead (windowIndex buf d.offset.toNat i) d =
        (((px.drop (buf - d.offset.toNat)).take d.modw.toNat)[i], d) := by
  have hlength : ((px.drop (buf - d.offset.toNat)).take d.modw.toNat).length = d.modw.toNat := by
    rw [List.length_take, List.length_drop, h.1, scanWidth]
    rcases Nat.eq_zero_or_pos d.modw.toNat with h0 | hpos
    · omega
    · obtain ⟨hlo, -⟩ := hw 0 hpos
      obtain ⟨-, hhi⟩ := hw (d.modw.toNat - 1) (by omega)
      omega
  refine ⟨hlength, fun i hi => ?_⟩
  have hin := hw i (by omega)
  have hindex : (windowIndex buf d.offset.toNat i).toNat = buf - d.offset.toNat + i := by
    obtain ⟨hlo, -⟩ := hw 0 (by omega)
    simp only [windowIndex]
    omega
  rw [h.slRead_eq (i := windowIndex buf d.offset.toNat i) hin, hindex, List.getElem_take, List.getElem_drop,
    List.getD_eq_getElem]

/-- `Classify` on a written row whose pixels it does not leave (R115, R116). -/
theorem classifySpan_written (h : HoldsPixels d px) {buf : Nat} (hin : ClassifyInRow d px buf) :
    classifySpan buf d.modw.toNat d.offset.toNat d = (classifyPixels px buf d.modw.toNat d.offset.toNat, d) := by
  obtain ⟨hs, hw⟩ := hin
  have hfar : slRead (farIndex buf d.modw.toNat d.offset.toNat) d =
      (px.getD (buf + d.modw.toNat - d.offset.toNat - 1) dark, d) := by
    rw [h.slRead_eq (i := farIndex buf d.modw.toNat d.offset.toNat) hs.2, hs.farIndex_eq]
    rfl
  simp only [classifySpan, classifyPixels, h.slRead_eq hs.1, hfar, Int.toNat_natCast]
  split
  · rfl
  · next hab =>
    obtain ⟨hlen, hread⟩ := h.window (hw.resolve_left hab)
    have hvote := voteLoop_written (d := d) (bw := d.modw.toNat) _ 0 0 0 (Nat.zero_le _) (Nat.zero_le _)
      (by rw [hlen, Nat.add_zero, Nat.zero_add]) (fun i hi => by rw [Nat.zero_add]; exact hread i hi)
    rwa [hlen, Nat.zero_add] at hvote

/-- On a written row the reads of `Classify` leave the row where its pixels do (R110, R115). -/
theorem HoldsPixels.leavesRow_iff (h : HoldsPixels d px) (buf : Nat) :
    LeavesRow d buf ↔ ¬ ClassifyInRow d px buf := by
  by_cases hs : SamplesInRow d buf
  · have hcell {i : Nat} (hi : InRow d i) : sparseGet d.sl i = some (px.getD i dark) := by
      have hlt : i < px.length := by
        rw [h.1, scanWidth]
        have := hi.2
        omega
      rw [h.2 i hlt, List.getD_eq_getElem _ _ hlt]
    have hfar : InRow d (farCell d buf : Nat) := by
      rw [← hs.farIndex_eq]
      exact hs.2
    rw [hs.leavesRow_iff, ClassifyInRow, startSample, farSample, hcell hs.1, hcell hfar, farCell]
    simp only [hs, true_and, not_or, Option.getD_some, ne_eq]
  · simp only [LeavesRow, ClassifyInRow, hs, not_false_eq_true, true_or, false_and]

end Sys2Proof.Machine
end

section
/-! PROOF. `SLRead`, MEASURE and CLASSIFY as command words: what they find on a written row, that they complete on any
row, and that the sampler's commands use no cell at or above `W` (R110 to R118, R191, R211). -/

namespace Sys2Proof.Machine

variable {d : Datapath} {px : List Colour}

/-! ## MEASURE -/

/-- The longest run from the front of a list: every element of it meets the test, and the one after it does not. -/
theorem takeWhile_run {α : Type} (test : α → Bool) (l : List α) :
    (l.takeWhile test).length ≤ l.length ∧ (∀ i < (l.takeWhile test).length, ∃ c, l[i]? = some c ∧ test c = true) ∧
    ((l.takeWhile test).length < l.length → ∃ c, l[(l.takeWhile test).length]? = some c ∧ test c = false) := by
  have hle : l.findIdx (fun c => !test c) ≤ l.length := List.findIdx_le_length
  have hlen : (l.takeWhile test).length = l.findIdx (fun c => !test c) := by
    rw [List.takeWhile_eq_take_findIdx_not, List.length_take, Nat.min_eq_left hle]
  rw [hlen]
  refine ⟨hle, fun i hi => ?_, fun hlt => ?_⟩
  · exact ⟨_, List.getElem?_eq_getElem (by omega), by simpa using List.not_of_lt_findIdx hi⟩
  · exact ⟨_, List.getElem?_eq_getElem hlt, by simpa using List.findIdx_getElem (w := hlt)⟩

/-- A pixel of a written row, as its cell holds it (R104). -/
theorem HoldsPixels.cell (h : HoldsPixels d px) {i : Nat} {c : Colour} (hc : px[i]? = some c) :
    sparseGet d.sl i = some c := by
  obtain ⟨hi, rfl⟩ := List.getElem?_eq_some_iff.1 hc
  exact h.2 i hi

/-- MEASURE on a written row: the leading light run, the dark run after it, and a dark run where the light one ends
before the row does (R111, R112, R113). -/
theorem measureBody_written (hw : widthOk d = true) (h : HoldsPixels d px) {p n : Nat}
    (hp : p = (px.takeWhile (· == light)).length) (hn : n = ((px.drop p).takeWhile (· == dark)).length) :
    measureBody d = .ok (endMeasure p n d) ∧ (n = 0 ↔ p = px.length) := by
  obtain ⟨hple, hlight, hedge⟩ := takeWhile_run (· == light) px
  obtain ⟨hnle, hdark, hend⟩ := takeWhile_run (· == dark) (px.drop p)
  rw [← hp] at hple hlight hedge
  rw [← hn] at hnle hdark hend
  simp only [List.length_drop, List.getElem?_drop] at hnle hdark hend
  have hbar (hlt : p < px.length) : 0 < n := by
    obtain ⟨c, hc, hcdark⟩ := hedge hlt
    by_contra hzero
    obtain ⟨c', hc', hclight⟩ := hend (by omega)
    obtain rfl : n = 0 := by omega
    rw [Nat.add_zero, hc, Option.some.injEq] at hc'
    subst hc'
    cases c <;> simp at hcdark hclight
  have hlen := h.1
  refine ⟨measureBody_run hw (by omega) (fun i hi => ?_) (fun i hi => ?_) (fun hlt => hbar (by omega))
    (fun hlt => ?_), ⟨fun hzero => ?_, by omega⟩⟩
  · obtain ⟨c, hc, hcol⟩ := hlight i hi
    rw [h.cell hc, eq_of_beq hcol]
  · obtain ⟨c, hc, hcol⟩ := hdark i hi
    rw [h.cell hc, eq_of_beq hcol]
  · obtain ⟨c, hc, hcol⟩ := hend (by omega)
    rw [h.cell hc, show c = light by simpa using hcol]
  · by_contra hne
    exact absurd (hbar (by omega)) (by omega)

/-- MEASURE on any row: the bar it finds lies in the row, there is none only at its end, and each cell is drawn once
at most (R112, R113, R211). -/
theorem measureBody_reads (hw : widthOk d = true) :
    ∃ p n k, p + n ≤ scanWidth d ∧ (n = 0 ↔ p = scanWidth d) ∧ d.draws ≤ k ∧ k ≤ d.draws + scanWidth d ∧
      measureBody d = .ok (measured p n k d) := by
  obtain ⟨⟨-, hp⟩, k₁, hlo₁, hhi₁, hskip⟩ := skipLoop_frame (scanWidth d) 0 d
  rcases e₁ : skipLoop (scanWidth d) 0 d with ⟨p, d₁⟩
  simp only [e₁, Nat.zero_add, Nat.add_zero] at hp hhi₁ hskip
  subst hskip
  have hfirst : firstDark p { d with draws := k₁ } = 1 ∧ p < scanWidth d ∨
      firstDark p { d with draws := k₁ } = 0 ∧ p = scanWidth d := by
    rcases Nat.lt_or_eq_of_le hp with hlt | heq
    · exact .inl ⟨if_pos hlt, hlt⟩
    · exact .inr ⟨if_neg (Nat.not_lt.2 heq.ge), heq⟩
  obtain ⟨⟨hnlo, hnhi⟩, k₂, hlo₂, hhi₂, hcount⟩ := countLoop_frame
    (scanWidth d - p - firstDark p { d with draws := k₁ }) p (firstDark p { d with draws := k₁ })
    { d with draws := k₁ }
  rcases e₂ : countLoop (scanWidth d - p - firstDark p { d with draws := k₁ }) p
    (firstDark p { d with draws := k₁ }) { d with draws := k₁ } with ⟨n, d₂⟩
  simp only [e₂] at hnlo hnhi hlo₂ hhi₂ hcount
  subst hcount
  refine ⟨p, n, k₂, by omega, by omega, Nat.le_trans hlo₁ hlo₂, ?_, ?_⟩
  · split at hhi₁ <;> omega
  · simp only [measureBody, hw, if_true, e₁]
    rw [show scanWidth { d with draws := k₁ } = scanWidth d from rfl, e₂]
    rfl

/-! ## CLASSIFY -/

/-- CLASSIFY is `Classify` at the cursor, and its result in `CLSBIT` (R117). -/
theorem classifyBody_eq {d' : Datapath} {c : Colour} (hw : widthOk d = true)
    (h : classifySpan d.cursor.toNat d.modw.toNat d.offset.toNat d = (c, d')) :
    classifyBody d = .ok (endClassify c d') := by
  simp only [classifyBody, hw, if_true, h]

/-- CLASSIFY on any row: the bounds of `classifySpan_reads` (R115, R117, R211). -/
theorem classifyBody_reads (hw : widthOk d = true) :
    ∃ c o n, d.draws ≤ n ∧ n ≤ d.draws + (2 + d.modw.toNat) ∧ (o = true ↔ LeavesRow d d.cursor.toNat) ∧
      classifyBody d = .ok (endClassify c (sampled o n d)) := by
  obtain ⟨o, ⟨n, hlo, hhi, hspan⟩, hleave⟩ := classifySpan_reads d d.cursor.toNat
  rcases e : classifySpan d.cursor.toNat d.modw.toNat d.offset.toNat d with ⟨c, d'⟩
  rw [e] at hspan
  subst hspan
  exact ⟨c, o, n, hlo, hhi, hleave, classifyBody_eq hw e⟩

/-- CLASSIFY on a written row that it does not leave (R115, R117). -/
theorem classify_written {s : State} {px : List Colour} (h : Ready s) (hw : widthOk s.dp = true)
    (hpx : HoldsPixels s.dp px) (hin : ClassifyInRow s.dp px s.dp.cursor.toNat) :
    exec .classify s = .next { s with dp := { s.dp with
      pixReads := []
      status := { s.dp.status with
        clsbit := classifyPixels px s.dp.cursor.toNat s.dp.modw.toNat s.dp.offset.toNat
        done := true } } } :=
  exec_instr_of_body (op := .classify) h
    (classifyBody_eq (d := acceptFlags s.dp) hw (classifySpan_written (d := acceptFlags s.dp) hpx hin))

/-- `Classify` stays in the row where both samples lie in it and the window, which ends at the far sample, begins at
index 0 or above or is not read (R114, R115). -/
theorem classifyInRow_of_fits {buf : Nat} (hlen : px.length = scanWidth d) (hoff : d.offset.toNat < buf + d.modw.toNat)
    (hbuf : buf < px.length) (hfar : buf + d.modw.toNat - d.offset.toNat ≤ px.length)
    (hwin : px.getD buf dark = px.getD (buf + d.modw.toNat - d.offset.toNat - 1) dark ∨ d.offset.toNat ≤ buf) :
    ClassifyInRow d px buf := by
  rw [hlen, scanWidth] at hbuf hfar
  refine ⟨⟨?start, ?far⟩, hwin.imp_right fun hle k hk => ?window⟩ <;> simp only [InRow] <;> omega

/-- The window holds the `off` pixels before the span and the first `bw - off` pixels of the span, so those alone can
be wrong where the pixels before it have the module's colour (R114, R118 (c)). -/
theorem count_window_le {px : List Colour} {buf bw off : Nat} {c : Colour} (hoff : off ≤ bw) (hbuf : off ≤ buf)
    (hbefore : ∀ x, buf - off ≤ x → x < buf → px.getD x dark = c) :
    ((px.drop (buf - off)).take bw).count (!c) ≤ ((px.drop buf).take (bw - off)).count (!c) := by
  have hsplit : (px.drop (buf - off)).take bw = (px.drop (buf - off)).take off ++ (px.drop buf).take (bw - off) := by
    conv_lhs => rw [← Nat.add_sub_cancel' hoff, List.take_add, List.drop_drop, Nat.sub_add_cancel hbuf]
  have hclean : ((px.drop (buf - off)).take off).count (!c) = 0 := by
    refine List.count_eq_zero.2 fun hmem => ?_
    obtain ⟨i, hi, e⟩ := List.getElem_of_mem hmem
    rw [List.length_take, List.length_drop] at hi
    rw [List.getElem_take, List.getElem_drop, ← List.getD_eq_getElem _ dark,
      hbefore (buf - off + i) (by omega) (by omega)] at e
    cases c <;> simp at e
  rw [hsplit, List.count_append, hclean, Nat.zero_add]

/-- `Classify` with one boundary sample right and at most `bw - bw div 2 - 1` pixels of its window wrong (R118 (c)). -/
theorem classifyPixels_tolerates {buf bw off : Nat} {c : Colour} (hoff : off ≤ bw) (hbuf : off ≤ buf)
    (hfit : buf + bw ≤ px.length)
    (hnoise : ((px.drop (buf - off)).take bw).count (!c) ≤ bw - bw / 2 - 1) (hbw : 0 < bw)
    (hsample : px.getD buf dark = c ∨ px.getD (buf + bw - off - 1) dark = c) : classifyPixels px buf bw off = c := by
  simp only [classifyPixels]
  split
  · next hab => exact hsample.elim id hab.trans
  · have hlen : ((px.drop (buf - off)).take bw).length = bw := by
      rw [List.length_take, List.length_drop]
      omega
    have hsum := List.count_not_add_count ((px.drop (buf - off)).take bw) c
    cases c with
    | false => exact decide_eq_false (by simp only [Bool.not_false, light] at *; omega)
    | true => exact decide_eq_true (by simp only [light] at *; omega)

/-! ## Cells at or above `W` -/

/-- `d` with other scanline cells. -/
def withSl (sl : Scanline) (d : Datapath) : Datapath := { d with sl := sl }

/-- A sampler's command whose check fails only raises CfgError (R161). -/
theorem samplerBody_cfgError {op : Op} (hop : op = .measure ∨ op = .classify ∨ op = .assemble)
    (hw : widthOk d = false) : op.body d = raise .cfgError d := by
  rcases hop with rfl | rfl | rfl
  · simp only [Op.body, measureBody, hw, Bool.false_eq_true, if_false]
  · simp only [Op.body, classifyBody, hw, Bool.false_eq_true, if_false]
  · simp only [Op.body, assembleBody, hw, Bool.false_eq_true, if_false]

/-- On cells alike below `W` the sampler's commands read alike, so they end alike (R110, R112, R117, R126). -/
theorem samplerBody_withSl {op : Op} {sl : Scanline} (hop : op = .measure ∨ op = .classify ∨ op = .assemble)
    (hcells : ∀ i < scanWidth d, sparseGet sl i = sparseGet d.sl i) :
    op.body (withSl sl d) = mapEnd (withSl sl) (op.body d) := by
  have view : SameView d (withSl sl d) := ⟨rfl, rfl, hcells⟩
  cases hw : widthOk d with
  | false =>
    rw [samplerBody_cfgError hop hw, samplerBody_cfgError (d := withSl sl d) hop hw]
    rfl
  | true =>
    rcases hop with rfl | rfl | rfl
    · obtain ⟨p, n, k, e, e'⟩ := measureBody_alike view hw hw
      simp only [Op.body, e, e']
      rfl
    · obtain ⟨c, o, n, e, e'⟩ := classifySpan_alike view d.cursor.toNat d.modw.toNat d.offset.toNat
      simp only [Op.body, classifyBody_eq hw e, classifyBody_eq (d := withSl sl d) hw e']
      rfl
    · obtain ⟨vs, c, o, n, -, e, e'⟩ := assembleBody_alike view hw hw rfl rfl rfl
      simp only [Op.body, e, e']
      rfl

end Sys2Proof.Machine

namespace Sys2Proof.Proofs

open Sys2Proof.Machine

/-- Settles O13: a cell in range reads as it holds or as a draw, and a read out of range is a draw. -/
theorem scanlineReadRule : Obligations.ScanlineReadRule := by
  refine fun d i => ⟨fun c hlo hhi hc => ?_, fun hlo hhi hc => ?_, fun hout => slRead_out (by omega)⟩
  · rw [slRead_inRow ⟨hlo, hhi⟩, readCell_written hc]
  · rw [slRead_inRow ⟨hlo, hhi⟩, readCell_eq, hc]
    rfl

/-- Settles O14, by `measureBody_written`; with no dark run the light one is the whole row. -/
theorem measureFindsFirstBar : Obligations.MeasureFindsFirstBar := by
  intro s px h hw hpx p n
  obtain ⟨hbody, hend⟩ := measureBody_written (d := acceptFlags s.dp) hw hpx (p := p) (n := n) rfl rfl
  refine ⟨exec_instr_of_body (op := .measure) h hbody, hend.trans ?_⟩
  calc p = px.length
    _ ↔ px.takeWhile (· == light) = px := ⟨(List.takeWhile_prefix _).eq_of_length, congrArg List.length⟩
    _ ↔ ∀ c ∈ px, c = light := by simp only [List.takeWhile_eq_self_iff, beq_iff_eq]

/-- Settles O15, by `measureBody_reads`. -/
theorem measureAlwaysCompletes : Obligations.MeasureAlwaysCompletes := by
  intro s h hw
  obtain ⟨p, n, k, hpn, hbar, hlo, hhi, hbody⟩ := measureBody_reads (d := acceptFlags s.dp) hw
  exact ⟨p, n, k, hpn, hbar, hlo, hhi, exec_instr_of_body (op := .measure) h hbody⟩

/-- Settles O16, by `classifyBody_reads`: `OOB` is set exactly when the reads leave the row. -/
theorem classifyAlwaysCompletes : Obligations.ClassifyAlwaysCompletes := by
  intro s h hw
  obtain ⟨c, o, n, hlo, hhi, hleave, hbody⟩ := classifyBody_reads (d := acceptFlags s.dp) hw
  change o = true ↔ LeavesRow s.dp s.dp.cursor.toNat at hleave
  refine ⟨c, s.dp.status.oob || o, n, ?kept, hlo, hhi, ?samples, ?inside, ?within,
    exec_instr_of_body (op := .classify) h hbody⟩
  case kept => exact fun hoob => by rw [hoob, Bool.true_or]
  case samples => exact fun hout => by rw [hleave.2 (.inl hout), Bool.or_true]
  case inside =>
    intro hin hwindow
    have hquiet : o = false := by
      rw [← Bool.not_eq_true, hleave, SamplesInRow.leavesRow_iff hin]
      exact fun hleaves => hleaves.2 hwindow
    rw [hquiet, Bool.or_false]
  case within =>
    intro start far a b hin
    rw [Bool.or_eq_true, hleave, SamplesInRow.leavesRow_iff hin]
    rfl

/-- Settles O17, by `classifySpan_written`. -/
theorem classifyIsMajority : Obligations.ClassifyIsMajority := by
  intro s px h hw hpx buf bw off hoff hbuf hfar a b hwin window
  exact classify_written h hw hpx (classifyInRow_of_fits hpx.1 hoff hbuf hfar hwin)

/-- Settles O18: the window holds no more wrong pixels than the span, too few for a majority or a split. -/
theorem classifyToleratesNoise : Obligations.ClassifyToleratesNoise := by
  intro s px c h hw hpx buf bw off hoff hbuf hfit hbefore hnoise hsample
  have hcolour : classifyPixels px buf bw off = c :=
    classifyPixels_tolerates (by omega) hbuf hfit ((count_window_le (by omega) hbuf hbefore).trans hnoise) (by omega)
      hsample
  rw [← hcolour]
  exact classify_written h hw hpx
    (classifyInRow_of_fits hpx.1 (by omega) (by omega) (by omega) (.inr hbuf))

/-- Settles O19, by `samplerBody_withSl`. -/
theorem cellsBeyondWidthNeverMatter : Obligations.CellsBeyondWidthNeverMatter := by
  intro s t op sl hop h hcells ht
  rw [exec_instr_ready op h] at ht
  cases ht
  have h' : Ready { s with dp := withSl sl s.dp } := h
  refine (exec_instr_ready op h').trans ?_
  rw [show acceptFlags (withSl sl s.dp) = withSl sl (acceptFlags s.dp) from rfl,
    samplerBody_withSl (d := acceptFlags s.dp) hop hcells, bodyEnd_mapEnd]
  rfl

end Sys2Proof.Proofs
end

section
/-! PROOF. ASSEMBLE on any row: its 67 classifications one after the other, the code bits they make up, and what they
leave of `OOB` and the draws (R110, R115, R125 to R130, R211). -/

namespace Sys2Proof.Machine

variable {d : Datapath} {px : List Colour}

/-! ## The classifications of ASSEMBLE -/

/-- The datapath before the classification of module `q`, from `d` on, the codes apart (R126, R129). -/
def beforeModule (d : Datapath) : Nat → Datapath
  | 0 => d
  | q + 1 => (classifySpan (moduleStart d q) d.modw.toNat d.offset.toNat (beforeModule d q)).2

/-- What the classification of module `q` gives (R126, R129). -/
def moduleColour (d : Datapath) (q : Nat) : Colour :=
  (classifySpan (moduleStart d q) d.modw.toNat d.offset.toNat (beforeModule d q)).1

/-- The classifications of the first `q` modules mark `OOB` where the reads of one of them leave the row, and draw a
value for each read at most (R110, R211). -/
theorem beforeModule_reads (d : Datapath) : ∀ q, ∃ o, ReadsWithin (q * (2 + d.modw.toNat)) o d (beforeModule d q) ∧
    (o = true ↔ ∃ i < q, LeavesRow (beforeModule d i) (moduleStart d i))
  | 0 => ⟨false, by rw [Nat.zero_mul]; exact .refl d, by simp⟩
  | q + 1 => by
    obtain ⟨o, hread, ho⟩ := beforeModule_reads d q
    obtain ⟨o', hread', ho'⟩ := classifySpan_reads (beforeModule d q) (moduleStart d q)
    obtain ⟨hmodw, hoffset⟩ : (beforeModule d q).modw = d.modw ∧ (beforeModule d q).offset = d.offset := by
      obtain ⟨n, -, -, e⟩ := hread
      rw [e]
      exact ⟨rfl, rfl⟩
    rw [hmodw, hoffset] at hread'
    refine ⟨o || o', by rw [Nat.succ_mul]; exact hread.trans hread', ?_⟩
    rw [Bool.or_eq_true, ho, ho', Nat.exists_lt_succ_right]

/-- Before each module the registers and the cells are those of `d` (R126). -/
theorem beforeModule_eq (d : Datapath) (q : Nat) : ∃ o n, beforeModule d q = sampled o n d := by
  obtain ⟨o, ⟨n, -, -, e⟩, -⟩ := beforeModule_reads d q
  exact ⟨o, n, e⟩

theorem samplesInRow_beforeModule (d : Datapath) (q buf : Nat) :
    SamplesInRow (beforeModule d q) buf ↔ SamplesInRow d buf := by
  obtain ⟨o, n, e⟩ := beforeModule_eq d q
  rw [e]
  exact Iff.rfl

theorem windowInRow_beforeModule (d : Datapath) (q buf : Nat) :
    WindowInRow (beforeModule d q) buf ↔ WindowInRow d buf := by
  obtain ⟨o, n, e⟩ := beforeModule_eq d q
  rw [e]
  exact Iff.rfl

/-- Written samples read alike before every module (R115). -/
theorem SamplesHold.beforeModule {buf : Nat} {a b : Colour} (h : SamplesHold d buf a b) (q : Nat) :
    startSample (beforeModule d q) buf = a ∧ farSample (beforeModule d q) buf = b := by
  obtain ⟨o, n, e⟩ := beforeModule_eq d q
  obtain ⟨hstart, hfar⟩ := h
  rw [e]
  constructor
  · rw [startSample, show (sampled o n d).sl = d.sl from rfl, hstart, Option.getD_some]
  · rw [farSample, show sparseGet (sampled o n d).sl (farCell (sampled o n d) buf) = some b from hfar,
      Option.getD_some]

/-! ## The codes -/

/-- `Classify` neither sees nor changes the codes (R115). -/
theorem classifySpan_withCodes (buf bw off : Nat) (d : Datapath) (cs : Vector Code 11) :
    classifySpan buf bw off { d with codes := cs } =
      ((classifySpan buf bw off d).1, { (classifySpan buf bw off d).2 with codes := cs }) := by
  have view : SameView d { d with codes := cs } := ⟨rfl, rfl, fun _ _ => rfl⟩
  obtain ⟨c, o, n, e, e'⟩ := classifySpan_alike view buf bw off
  rw [e, e']
  rfl

/-- The modules from `start` on: their colours are shifted in (R126, R129). -/
theorem sampleModules_colours (d : Datapath) (cs : Vector Code 11) : ∀ (n start : Nat) (acc : Code),
    sampleModules d.modw d.offset.toNat n acc (BitVec.ofNat 32 (d.cursor.toNat + start * d.modw.toNat))
        { beforeModule d start with codes := cs } =
      ((accumulate (moduleColour d) start n acc, BitVec.ofNat 32 (d.cursor.toNat + (start + n) * d.modw.toNat)),
        { beforeModule d (start + n) with codes := cs })
  | 0, _, _ => rfl
  | n + 1, start, acc => by
    have hstart : (BitVec.ofNat 32 (d.cursor.toNat + start * d.modw.toNat)).toNat = moduleStart d start :=
      BitVec.toNat_ofNat _ _
    have hrest := sampleModules_colours d cs n (start + 1) (shiftIn acc (moduleColour d start))
    rw [show start + 1 + n = start + (n + 1) by omega] at hrest
    simp only [sampleModules, hstart, classifySpan_withCodes, cursor_next]
    exact hrest

/-- The segments from `k` on (R126, R129). -/
theorem sampleSegments_colours (d : Datapath) : ∀ (ks : List (Fin 11)) (k : Fin 11) (cs : Vector Code 11),
    segmentsFrom (nextSegment k) = ks →
    sampleSegments d.modw d.offset.toNat (k :: ks)
        (BitVec.ofNat 32 (d.cursor.toNat + segStart k * d.modw.toNat))
        { beforeModule d (segStart k) with codes := cs } =
      (BitVec.ofNat 32 (d.cursor.toNat + 67 * d.modw.toNat),
        { beforeModule d 67 with codes := storeCodes (symbolStores (moduleColour d) (k :: ks)) cs }) := by
  intro ks
  induction ks with
  | nil =>
    intro k cs hks
    obtain ⟨-, hlen, hlast, -⟩ := segStart_next k
    rw [sampleSegments, sampleModules_colours, accumulate_eq_codeOf, hlast (eq_none_of_segmentsFrom hks), hlen]
    generalize beforeModule d 67 = e
    rfl
  | cons k' ks ih =>
    intro k cs hks
    obtain ⟨hk, hks'⟩ := eq_some_of_segmentsFrom hks
    obtain ⟨-, hlen, -, hnext⟩ := segStart_next k
    rw [sampleSegments, sampleModules_colours, accumulate_eq_codeOf, hnext k' hk, hlen]
    exact ih k' (cs.set k _) hks'

/-- ASSEMBLE stores the codes of the 67 colours that it reads (R125, R126, R129). -/
theorem assembleBody_colours (hw : widthOk d = true) :
    assembleBody d = .ok { beforeModule d 67 with
      codes := codesOf (moduleColour d), cursor := BitVec.ofNat 32 (d.cursor.toNat + 67 * d.modw.toNat) } := by
  have hsegments : segments = 0 :: segmentsFrom (nextSegment 0) := by decide
  have hstart : d.cursor = BitVec.ofNat 32 (d.cursor.toNat + segStart 0 * d.modw.toNat) := by
    simp [segStart]
  have sampled := sampleSegments_colours d (segmentsFrom (nextSegment 0)) 0 d.codes rfl
  have hfirst : { beforeModule d (segStart 0) with codes := d.codes } = d := rfl
  rw [hfirst, ← hstart, ← hsegments, storeCodes_symbol] at sampled
  simp only [assembleBody, hw, if_true, sampled]

/-- The code of `n` modules has `n` bits (R125). -/
theorem codeOf_lt (modules : Nat → Colour) (start : Nat) : ∀ n, (codeOf modules start n).toNat < 2 ^ n
  | 0 => Nat.one_pos
  | n + 1 => by
    rw [codeOf_succ]
    exact shiftIn_lt (codeOf_lt modules start n) _

/-- The bits of a code after a shift: the new colour, and above it the old ones (R126). -/
theorem shiftIn_getLsbD (acc : Code) (c : Colour) (i : Nat) :
    (shiftIn acc c).getLsbD i = if i = 0 then c else decide (i < 7) && acc.getLsbD (i - 1) := by
  have hdisjoint : (acc <<< 1) &&& (if c then 1 else 0 : Code) = 0 := by
    ext i hi
    cases c <;> cases i <;> simp
  rw [shiftIn, BitVec.add_eq_or_of_and_eq_zero _ _ hdisjoint, BitVec.getLsbD_or, BitVec.getLsbD_shiftLeft]
  cases c <;> cases i <;> simp [BitVec.getLsbD_one]

/-- Module `m` of a segment is bit `n - 1 - m` of its code (R12, R17). -/
theorem codeOf_getLsbD (modules : Nat → Colour) (start : Nat) : ∀ {n m : Nat}, n ≤ 7 → m < n →
    (codeOf modules start n).getLsbD (n - 1 - m) = modules (start + m)
  | n + 1, m, hn, hm => by
    rw [codeOf_succ, shiftIn_getLsbD]
    split
    · rw [show m = n by omega]
    · rw [show n + 1 - 1 - m - 1 = n - 1 - m by omega, codeOf_getLsbD modules start (by omega) (by omega),
        decide_eq_true (by omega), Bool.true_and]

/-- The code of segment `k` (R125). -/
theorem codesOf_getElem (modules : Nat → Colour) (k : Fin 11) :
    (codesOf modules)[k] = codeOf modules (segStart k) (segCount k) := by
  simp [codesOf]

theorem segCount_le : ∀ k : Fin 11, segCount k ≤ 7 := by decide

/-! ## ASSEMBLE on a written row -/

/-- A module whose reads lie in a written row reads its pixels, whatever the others read (R115, R129). -/
theorem moduleColour_written (h : HoldsPixels d px) {q : Nat} (hin : ClassifyInRow d px (moduleStart d q)) :
    classifySpan (moduleStart d q) d.modw.toNat d.offset.toNat (beforeModule d q) =
      (classifyPixels px (moduleStart d q) d.modw.toNat d.offset.toNat, beforeModule d q) := by
  obtain ⟨o, n, e⟩ := beforeModule_eq d q
  rw [e]
  exact classifySpan_written (d := sampled o n d) h hin

/-- On a written row the reads of a module leave the row where its pixels do (R110, R115). -/
theorem leavesRow_written (h : HoldsPixels d px) (q buf : Nat) :
    LeavesRow (beforeModule d q) buf ↔ ¬ ClassifyInRow d px buf := by
  obtain ⟨o, n, e⟩ := beforeModule_eq d q
  rw [e]
  exact HoldsPixels.leavesRow_iff (d := sampled o n d) h buf

/-- Modules whose reads lie in a written row draw nothing (R110). -/
theorem beforeModule_written (h : HoldsPixels d px) : ∀ q, (∀ i < q, ClassifyInRow d px (moduleStart d i)) →
    beforeModule d q = d
  | 0, _ => rfl
  | q + 1, hin => by
    rw [beforeModule, moduleColour_written h (hin q (Nat.lt_succ_self q))]
    exact beforeModule_written h q fun i hi => hin i (Nat.lt_succ_of_lt hi)

/-- ASSEMBLE as a command word: the codes of the 67 colours, with the marks and draws of their reads (R126). -/
theorem assemble_colours {s : State} {o : Bool} {n : Nat} (h : Ready s) (hw : widthOk s.dp = true)
    (hreads : beforeModule (acceptFlags s.dp) 67 = sampled o n (acceptFlags s.dp)) :
    exec .assemble s = .next { s with dp := { s.dp with
      codes := codesOf (moduleColour (acceptFlags s.dp))
      cursor := BitVec.ofNat 32 (s.dp.cursor.toNat + 67 * s.dp.modw.toNat)
      pixReads := []
      draws := n
      status := { s.dp.status with oob := s.dp.status.oob || o, done := true } } } := by
  have hbody := assembleBody_colours (d := acceptFlags s.dp) hw
  rw [hreads] at hbody
  exact exec_instr_of_body (op := .assemble) h hbody

end Sys2Proof.Machine

namespace Sys2Proof.Proofs

open Sys2Proof.Machine

/-- Settles O20: `OOB` is set exactly when the reads of some module leave the row, as they find it. -/
theorem assembleAlwaysCompletes : Obligations.AssembleAlwaysCompletes := by
  intro s h hw
  obtain ⟨o, ⟨n, hlo, hhi, hreads⟩, ho⟩ := beforeModule_reads (acceptFlags s.dp) 67
  refine ⟨_, s.dp.status.oob || o, n, ?kept, hlo, hhi, ?samples, ?window, ?inside, fun k => ?codes,
    assemble_colours h hw hreads⟩
  case kept => exact fun hoob => by rw [hoob, Bool.true_or]
  case samples =>
    rintro ⟨q, hq, hout⟩
    rw [ho.2 ⟨q, hq, .inl (mt (samplesInRow_beforeModule (acceptFlags s.dp) q _).1 hout)⟩, Bool.or_true]
  case window =>
    rintro ⟨q, hq, a, hold, hout⟩
    obtain ⟨ha, hb⟩ := SamplesHold.beforeModule (d := acceptFlags s.dp) hold q
    have hdiffer : startSample (beforeModule (acceptFlags s.dp) q) (moduleStart s.dp q) ≠
        farSample (beforeModule (acceptFlags s.dp) q) (moduleStart s.dp q) := by
      rw [ha, hb]
      exact (Bool.not_ne_self a).symm
    rw [ho.2 ⟨q, hq, .inr ⟨hdiffer, mt (windowInRow_beforeModule (acceptFlags s.dp) q _).1 hout⟩⟩, Bool.or_true]
  case inside =>
    intro hin
    have hquiet : o = false := by
      rw [← Bool.not_eq_true, ho]
      rintro ⟨q, hq, hout | ⟨hne, hout⟩⟩
      · exact hout ((samplesInRow_beforeModule _ q _).2 (hin q hq).1)
      · obtain ⟨-, ⟨a, hold⟩ | hwindow⟩ := hin q hq
        · obtain ⟨ha, hb⟩ := SamplesHold.beforeModule (d := acceptFlags s.dp) hold q
          exact hne (ha.trans hb.symm)
        · exact hout ((windowInRow_beforeModule _ q _).2 hwindow)
    rw [hquiet, Bool.or_false]
  case codes =>
    rw [codesOf_getElem]
    exact codeOf_lt _ _ _

/-- Settles O21: each bit is the colour of its module (`codeOf_getLsbD`), and a module whose reads lie in the row
reads its pixels. -/
theorem assembleReadsEachModule : Obligations.AssembleReadsEachModule := by
  intro s px h hw hpx
  have hpx' : HoldsPixels (acceptFlags s.dp) px := hpx
  obtain ⟨o, ⟨n, -, -, hreads⟩, ho⟩ := beforeModule_reads (acceptFlags s.dp) 67
  refine ⟨_, _, n, assemble_colours h hw hreads, fun k m hm => ?bit, ?oob, fun hin => ?quiet⟩
  case bit =>
    intro buf hin
    rw [codesOf_getElem, codeOf_getLsbD _ _ (segCount_le k) hm]
    exact congrArg Prod.fst (moduleColour_written hpx' hin)
  case oob =>
    simp only [Bool.or_eq_true, ho, leavesRow_written hpx']
    rfl
  case quiet =>
    have hsame := beforeModule_written hpx' 67 hin
    rw [hreads] at hsame
    exact congrArg Datapath.draws hsame

end Sys2Proof.Proofs
end

section
/-! PROOF. ASSEMBLE as a command word on a clean symbol (R127). -/

namespace Sys2Proof.Proofs

open Sys2Proof.Machine

/-- Settles O22: acceptance leaves the symbol in the row, and the body reads it as `assembleBody_symbol` says, with
no draw and no read out of range. -/
theorem assembleReadsCleanSymbol : Obligations.AssembleReadsCleanSymbol := by
  intro s modules h hw hoff hsymbol
  have hbody := assembleBody_symbol (d := acceptFlags s.dp) hw hsymbol hoff
  exact exec_instr_of_body (op := .assemble) h hbody

end Sys2Proof.Proofs
end

section
/-! PROOF. TRANSLATE's checks in list order, and the lookup and the tables they use (R139 to R142, R144, R146). -/

namespace Sys2Proof.Machine

/-! ## Lookup -/

/-- From digit `n` on, the lookup is the library's first index of `v`, counted from `n` (R141). -/
theorem lookupFrom_val {es : List Code} {n : Nat} (v : Code) (h : n + es.length ≤ 10) :
    (lookupFrom es n v).map Fin.val = (es.idxOf? v).map (· + n) := by
  induction es generalizing n with
  | nil => rfl
  | cons e es ih =>
    rw [List.length_cons] at h
    rw [lookupFrom, List.idxOf?_cons]
    by_cases hev : e = v
    · have hn : n < 10 := by omega
      simp [hev, hn]
    · rw [if_neg hev, ih (by omega)]
      cases es.idxOf? v with
      | none => simp [hev]
      | some i => simp [hev]; omega

/-- A table of ten codes is looked up by the library's first index (R141). -/
theorem lookup_val {table : List Code} (v : Code) (hlen : table.length = 10) :
    (lookup table v).map Fin.val = table.idxOf? v := by
  rw [lookup, lookupFrom_val v (by omega)]
  simp

/-- The entry of a digit in a table of ten codes. -/
theorem getD_entry {table : List Code} (hlen : table.length = 10) (x : Fin 10) :
    table.getD x.val 0 = table[x.val]'(by omega) :=
  List.getD_eq_getElem table 0 (by omega)

/-- `Lookup` answers the smallest digit whose entry is the value (R141). -/
theorem lookup_eq_some_iff {table : List Code} {v : Code} (hlen : table.length = 10) (x : Fin 10) :
    lookup table v = some x ↔ table.getD x.val 0 = v ∧ ∀ y : Fin 10, y < x → table.getD y.val 0 ≠ v := by
  rw [← (Option.map_injective Fin.val_injective).eq_iff, lookup_val v hlen, Option.map_some,
    List.idxOf?_eq_some_iff]
  simp only [getD_entry hlen]
  constructor
  · rintro ⟨_, hx, hfirst⟩
    exact ⟨hx, fun y hy => hfirst y.val hy⟩
  · rintro ⟨hx, hfirst⟩
    exact ⟨by omega, hx, fun j hj => hfirst ⟨j, by omega⟩ hj⟩

/-- `Lookup` answers NONE when no entry is the value (R141). -/
theorem lookup_eq_none_iff {table : List Code} {v : Code} (hlen : table.length = 10) :
    lookup table v = none ↔ ∀ x : Fin 10, table.getD x.val 0 ≠ v := by
  rw [← Option.map_eq_none_iff (f := Fin.val), lookup_val v hlen, List.idxOf?_eq_none_iff, List.mem_iff_getElem]
  simp only [getD_entry hlen]
  constructor
  · exact fun hnone x hx => hnone ⟨x.val, by omega, hx⟩
  · rintro hnone ⟨j, hj, hv⟩
    exact hnone ⟨j, by omega⟩ hv

/-- A RIGHT code read from its last module to its first is no LEFT code (R146). -/
theorem lookup_left_reversed : ∀ x : Fin 10, lookup digitTables.1 (digitTables.2.getD x.val 0).reverse = none := by
  decide

/-! ## The checks in list order -/

/-- What the checks' outcome leaves: the digits, or the first failure and no digits (R140, R142). -/
def endByRule (e : Except Result (List (Fin 10))) (d : Datapath) : Datapath :=
  { d with
    result := (match e with | .ok _ => .ok | .error r => r)
    digits := (match e with | .ok ds => packDigits ds | .error _ => 0xFFFFFFFF) }

/-- The end after the last check (R140). -/
theorem endTranslate_ok (ds : List (Fin 10)) (d : Datapath) : endTranslate .ok ds d = endByRule (.ok ds) d := rfl

/-- A failure leaves no digits, whatever was found before it (R140). -/
theorem endTranslate_fail {r : Result} (hr : r ≠ .ok) (found : List (Fin 10)) (d : Datapath) :
    endTranslate r found d = endByRule (.error r) d := by
  rw [endTranslate, if_neg hr]
  rfl

section
variable {k : Fin 11} {ks : List (Fin 11)} {found : List (Fin 10)} {d : Datapath} {v : Code}

/-- A check that fails decides the result, and no later one is evaluated (R142). -/
theorem translateLoop_fail {r : Result} (h : checkCode k d.codes[k] = .fail r) :
    translateLoop (k :: ks) found d = endTranslate r found d := by
  simp only [translateLoop, h]

/-- A guard's check before checks that follow `rest` follows the guard's line and then `rest` (R142, R144). -/
theorem translateLoop_guard {want : Code} {r : Result} {rest : Except Result (List (Fin 10))}
    (hcheck : checkCode k d.codes[k] = checkGuard want v r) (hr : r ≠ .ok)
    (hrest : translateLoop ks found d = endByRule rest d) :
    translateLoop (k :: ks) found d = endByRule (requireCode v want r >>= fun _ => rest) d := by
  by_cases hv : v = want
  · rw [checkGuard, if_pos hv] at hcheck
    rw [translateLoop_pass hcheck, hrest, requireCode, if_pos hv]
    rfl
  · rw [checkGuard, if_neg hv] at hcheck
    rw [translateLoop_fail hcheck, endTranslate_fail hr, requireCode, if_neg hv]
    rfl

/-- A digit's check before checks that follow `rest` follows the digit's line and then `rest` (R141, R142). -/
theorem translateLoop_lookup {table : List Code} {p : Fin 8} {rest : Fin 10 → Except Result (List (Fin 10))}
    (hcheck : checkCode k d.codes[k] = checkDigit table v p)
    (hrest : ∀ x, translateLoop ks (found ++ [x]) d = endByRule (rest x) d) :
    translateLoop (k :: ks) found d = endByRule (requireDigit table v p >>= rest) d := by
  cases hx : lookup table v with
  | some x =>
    simp only [checkDigit, hx] at hcheck
    rw [translateLoop_digit hcheck, hrest]
    simp only [requireDigit, hx]
    rfl
  | none =>
    simp only [checkDigit, hx] at hcheck
    rw [translateLoop_fail hcheck, endTranslate_fail (r := .invalidDigitError p) nofun]
    simp only [requireDigit, hx]
    rfl

end

/-- The loop over the segments is the checks line by line (R140, R142). -/
theorem translateLoop_segments (d : Datapath) :
    translateLoop segments [] d = endByRule (translateRule d.codes) d :=
  translateLoop_guard rfl nofun <|
  translateLoop_lookup rfl fun _ =>
  translateLoop_lookup rfl fun _ =>
  translateLoop_lookup rfl fun _ =>
  translateLoop_lookup rfl fun _ =>
  translateLoop_guard rfl nofun <|
  translateLoop_lookup rfl fun _ =>
  translateLoop_lookup rfl fun _ =>
  translateLoop_lookup rfl fun _ =>
  translateLoop_lookup rfl fun _ =>
  translateLoop_guard rfl nofun <|
  endTranslate_ok _ d

/-- The rule on a symbol read right to left: the start guard is right, the first left code is none (R146). -/
theorem translateRule_reversed {codes : Vector Code 11} {x : Fin 10} (hguard : codes[0] = startGuard)
    (hcode : codes[1] = (digitTables.2.getD x.val 0).reverse) :
    translateRule codes = .error (.invalidDigitError 0) := by
  have start : requireCode codes[0] 2 .startGuardError = .ok () := if_pos hguard
  have first : requireDigit digitTables.1 codes[1] 0 = .error (.invalidDigitError 0) := by
    rw [requireDigit, hcode, lookup_left_reversed]
  rw [translateRule, start, first]
  rfl

end Sys2Proof.Machine

namespace Sys2Proof.Proofs

open Sys2Proof.Machine

/-- Settles O23: acceptance leaves the codes, and the loop over them follows the rule
(`translateLoop_segments`). -/
theorem translateFollowsCheckOrder : Obligations.TranslateFollowsCheckOrder := by
  intro s h
  have hbody : translateBody (acceptFlags s.dp) = .ok (endByRule (translateRule s.dp.codes) (acceptFlags s.dp)) :=
    congrArg Except.ok (translateLoop_segments (acceptFlags s.dp))
  exact exec_instr_of_body (op := .translate) h hbody

/-- Settles O24: the lookup is the library's first index of the value. -/
theorem lookupFindsSmallestDigit : Obligations.LookupFindsSmallestDigit :=
  fun _ _ hlen => ⟨lookup_eq_some_iff hlen, lookup_eq_none_iff hlen⟩

/-- Settles O27: the checks in list order (O23) stop at the first left code. -/
theorem reversedScanFails : Obligations.ReversedScanFails := by
  intro s x h hguard hcode
  rw [translateFollowsCheckOrder s h, translateRule_reversed hguard hcode]

/-- Settles O25, by the twenty entries. -/
theorem tablesAreComplementary : Obligations.TablesAreComplementary := by
  refine ⟨rfl, rfl, rfl, rfl, ?distinct, ?complement, ?ends⟩
  case distinct => decide
  case complement => decide
  case ends => decide

end Sys2Proof.Proofs
end

section
/-! PROOF. Where UNPACK aborts, RUN ends with it; SOFTRESET; acceptance (R151, R153, R155, R161, R162). -/

namespace Sys2Proof.Machine

/-! ## UNPACK's aborts -/

/-- UNPACK where the configuration check fails (R161). -/
theorem unpackBody_cfgError {d : Datapath} (h : imageOk d = false) : unpackBody d = raise .cfgError d := by
  simp only [unpackBody, h, Bool.false_eq_true, if_false]

/-- A row that does not answer throughout has a first byte that answers with an error (R162). -/
theorem exists_first_error {d : Datapath} {n : Nat} (h : ¬ rowReadable d n) :
    ∃ j < n, rowReadable d j ∧ pixelError d.errs (rowByte d j) = true := by
  classical
  have hex : ∃ j, j < n ∧ pixelError d.errs (rowByte d j) = true := by
    simpa [rowReadable] using h
  obtain ⟨hlt, herr⟩ := Nat.find_spec hex
  refine ⟨Nat.find hex, hlt, fun i hi => ?_, herr⟩
  have hbefore := Nat.find_min hex hi
  simpa [Nat.lt_trans hi hlt] using hbefore

/-- UNPACK aborts where its check fails, or a pixel byte of the row answers with an error (R161, R162). -/
theorem unpackBody_aborts {d : Datapath} (h : imageOk d = false ∨ ¬ rowReadable d (pixelBytes d)) :
    ∃ d', unpackBody d = .error d' := by
  cases hi : imageOk d with
  | false => exact ⟨_, unpackBody_cfgError hi⟩
  | true =>
    obtain ⟨j, hj, hrow, herr⟩ := exists_first_error (h.resolve_left (by simp [hi]))
    obtain ⟨_, _, _, -, e⟩ := unpackBody_busError hi hj hrow herr
    exact ⟨_, e⟩

/-! ## SOFTRESET -/

/-- An idle block takes SOFTRESET at once (R155). -/
theorem exec_softreset_idle {s : State} (hs : s.seq = .idle) :
    exec .softreset s = .next { s with dp := s.dp.resetRegisters } := by
  simp only [exec, execSoftreset, hs]

/-- A busy block drops SOFTRESET (R200 (a)). -/
theorem exec_softreset_busy {s : State} (hs : s.seq ≠ .idle) : exec .softreset s = .next (busyWrite s) := by
  cases h : s.seq with
  | idle => exact absurd h hs
  | busy op pos hz => simp only [exec, execSoftreset, h]

end Sys2Proof.Machine

namespace Sys2Proof.Proofs

open Sys2Proof.Machine

/-- Settles O29: acceptance leaves what UNPACK checks and reads, its body raises (`unpackBody_aborts`), and RUN's
with it. -/
theorem runAbortsWithUnpack : Obligations.RunAbortsWithUnpack := by
  intro s h habort
  obtain ⟨d', e⟩ := unpackBody_aborts (d := acceptFlags s.dp) habort
  have aborted (op : Op) (hop : op = .unpack ∨ op = .run) :
      exec op.instr s = .next { s with dp := finishFlags {} d', seq := .idle } := by
    rw [exec_instr_ready op h, body_of_unpackBody_error hop e]
    rfl
  exact (aborted .run (.inr rfl)).trans (aborted .unpack (.inl rfl)).symm

/-- Settles O33: the reset values are those of `Datapath.resetRegisters`, with `DONE` and `IE` among them. -/
theorem softresetRestoresRegisters : Obligations.SoftresetRestoresRegisters :=
  ⟨rfl, fun _ => ⟨fun hs => ⟨_, exec_softreset_idle hs, rfl, rfl⟩, exec_softreset_busy⟩⟩

/-- Settles O36: a command that the host disturbs is accepted and nothing more. -/
theorem acceptanceOpensBusyPeriod : Obligations.AcceptanceOpensBusyPeriod := by
  intro s op hs hu
  rw [exec_instr, command_disturbed hs hu]
  rfl

end Sys2Proof.Proofs
end

section
/-! PROOF. A busy period ends: every turn of the block comes nearer to the end of the command from any position, and
every act of the host is one of finitely many; what `finish()` makes of the flags the host cleared (R150, R152,
R200 (b), R210, R211). -/

namespace Sys2Proof.Machine

variable {op : Op} {d d' : Datapath}

/-! ## How far a position is from the end -/

/-- How much of a command is left: phases, in them segments, modules and reads, compared in that order (R22, R46). -/
abbrev TurnsLeft := Nat ×ₗ Nat ×ₗ Nat ×ₗ Nat

/-- So many phases, segments, modules and reads. -/
def turns (phases segments modules reads : Nat) : TurnsLeft :=
  toLex (phases, toLex (segments, toLex (modules, reads)))

/-- Fewer segments within one phase. -/
theorem turns_lt_of_segment {p s s' m m' r r' : Nat} (h : s < s') : turns p s m r < turns p s' m' r' :=
  Prod.Lex.toLex_lt_toLex.2 (.inr ⟨rfl, Prod.Lex.toLex_lt_toLex.2 (.inl h)⟩)

/-- Fewer modules within one segment. -/
theorem turns_lt_of_module {p s m m' r r' : Nat} (h : m < m') : turns p s m r < turns p s m' r' :=
  Prod.Lex.toLex_lt_toLex.2 (.inr ⟨rfl, Prod.Lex.toLex_lt_toLex.2 (.inr ⟨rfl, Prod.Lex.toLex_lt_toLex.2
    (.inl h)⟩)⟩)

/-- Fewer reads within one module. -/
theorem turns_lt_of_read {p s m r r' : Nat} (h : r < r') : turns p s m r < turns p s m r' :=
  Prod.Lex.toLex_lt_toLex.2 (.inr ⟨rfl, Prod.Lex.toLex_lt_toLex.2 (.inr ⟨rfl, Prod.Lex.toLex_lt_toLex.2
    (.inr ⟨rfl, h⟩)⟩)⟩)

/-- The reads left in one evaluation of `Classify` over a span of `bw` pixels, at most (R115, R211). -/
def Vote.readsLeft (bw : Nat) : Vote → Nat
  | .first => bw + 2
  | .far _ => bw + 1
  | .window k _ _ => bw - k

/-- The phases left from a position on: RUN goes through them in this order (R153). -/
def Pos.phasesLeft : Pos → Nat
  | .start => 5
  | .byte _ => 4
  | .skip _ => 3
  | .count _ _ => 2
  | .span _ => 1
  | .sample _ _ _ _ _ => 1
  | .check _ _ => 0

/-- The turns left from a position on, at most (R211). -/
def Pos.turnsLeft (d : Datapath) (pos : Pos) : TurnsLeft :=
  match pos with
  | .start => turns pos.phasesLeft 0 0 0
  | .byte j => turns pos.phasesLeft 0 0 (pixelBytes d - j)
  | .skip p => turns pos.phasesLeft 0 0 (scanWidth d - p)
  | .count p n => turns pos.phasesLeft 0 0 (scanWidth d - (p + n))
  | .span v => turns pos.phasesLeft 0 0 (v.readsLeft d.modw.toNat)
  | .sample k m _ _ v => turns pos.phasesLeft (11 - k) (segLen k - m) (v.readsLeft d.modw.toNat)
  | .check k _ => turns pos.phasesLeft (11 - k) 0 0

/-- A later phase has fewer turns left, whatever the datapath. -/
theorem turnsLeft_lt_of_phasesLeft_lt {pos pos' : Pos} (h : pos'.phasesLeft < pos.phasesLeft) (d d' : Datapath) :
    pos'.turnsLeft d' < pos.turnsLeft d := by
  have key (pos : Pos) (d : Datapath) : (ofLex (pos.turnsLeft d)).1 = pos.phasesLeft := by cases pos <;> rfl
  exact Prod.Lex.lt_iff.2 (.inl (by rwa [key, key]))

/-- The next segment is the one after (R125). -/
theorem nextSegment_val : ∀ k k' : Fin 11, nextSegment k = some k' → k'.val = k.val + 1 := by decide

/-- A step of `Classify` that does not decide leaves fewer reads (R115). -/
theorem voteStep_readsLeft {buf bw off : Nat} {v v' : Vote} (h : voteStep buf bw off v d = (.inl v', d')) :
    v'.readsLeft bw < v.readsLeft bw := by
  cases v with
  | first =>
    simp only [voteStep, Prod.mk.injEq, Sum.inl.injEq] at h
    rw [← h.1]
    exact Nat.lt_succ_self _
  | far a =>
    simp only [voteStep] at h
    split at h
    · simp at h
    · split at h
      · simp at h
      · simp only [Prod.mk.injEq, Sum.inl.injEq] at h
        rw [← h.1]
        exact Nat.lt_succ_self _
  | window k darks lights =>
    simp only [voteStep] at h
    split at h
    · simp at h
    · split at h
      · simp only [Prod.mk.injEq, Sum.inl.injEq] at h
        rw [← h.1]
        simp only [Vote.readsLeft]
        omega
      · simp at h

/-! ## One turn -/

/-- A turn of the block from `pos` at `d` to the datapath and the next position `r`, in any state: no draw is given
back, and where the command goes on it is nearer to its end. -/
structure TurnNearer (pos : Pos) (d : Datapath) (r : Datapath × Option Pos) : Prop where
  draws : d.draws ≤ r.1.draws
  next  : ∀ pos', r.2 = some pos' → pos'.turnsLeft r.1 < pos.turnsLeft d

namespace TurnNearer

variable {pos pos' : Pos}

/-- A turn after which the body has ended. -/
theorem last (h : d.draws ≤ d'.draws) : TurnNearer pos d (d', none) := ⟨h, by simp⟩

/-- A turn after which the command goes on. -/
theorem goOn (h : d.draws ≤ d'.draws) (hlt : pos'.turnsLeft d' < pos.turnsLeft d) :
    TurnNearer pos d (d', some pos') := ⟨h, by simpa using hlt⟩

/-- A turn that goes on in a later phase. -/
theorem goOnPhase (h : d.draws ≤ d'.draws) (hlt : pos'.phasesLeft < pos.phasesLeft) :
    TurnNearer pos d (d', some pos') := goOn h (turnsLeft_lt_of_phasesLeft_lt hlt d d')

/-- A turn that ends a phase (R153). -/
theorem phaseEnd (h : d.draws ≤ d'.draws) (hlt : pos'.phasesLeft < pos.phasesLeft) :
    TurnNearer pos d (d', afterPhase op pos') :=
  ⟨h, fun _ hp => by
    obtain ⟨-, rfl⟩ := afterPhase_eq_some.1 hp
    exact turnsLeft_lt_of_phasesLeft_lt hlt d d'⟩

/-- A configuration check (R161). -/
theorem check {c : Bool} (h : TurnNearer .start d (d', some pos)) :
    TurnNearer .start d (if c then (d', some pos) else (bodyEnd (raise .cfgError d), none)) := by
  cases c with
  | true => exact h
  | false => exact last (Nat.le_refl _)

end TurnNearer

/-- From a command's start (R103, R112, R117, R126, R140). -/
theorem startStep_nearer (op : Op) (d : Datapath) : TurnNearer .start d (startStep op d) := by
  have go (d' : Datapath) (pos : Pos) (h : d.draws = d'.draws) (hlt : pos.phasesLeft < 5) :
      TurnNearer .start d (d', some pos) := .goOnPhase (Nat.le_of_eq h) hlt
  cases op with
  | unpack => exact .check (go _ _ rfl (by decide))
  | measure => exact .check (go _ _ rfl (by decide))
  | classify => exact .check (go _ _ rfl (by decide))
  | assemble => exact .check (go _ _ rfl (by simp [startSampling, Pos.phasesLeft]))
  | translate => exact go _ _ rfl (by decide)
  | run => exact .check (go _ _ rfl (by decide))

/-- UNPACK at a pixel byte (R103, R162). -/
theorem posStep_byte_nearer (op : Op) (race : Bool) (j : Nat) (d : Datapath) :
    TurnNearer (.byte j) d (posStep op race (.byte j) d) := by
  rcases unpackByte_cases race j d with ⟨-, e⟩ | ⟨-, b, n, hn, -, e⟩
  · simp only [posStep, e]
    exact .last (Nat.le_refl _)
  · have hbytes := unpackByte_pixelBytes e
    obtain ⟨sl, hsl⟩ := storeByte_frame j b
      { d with pixReads := d.pixReads ++ [d.rowaddr + BitVec.ofNat 32 j], draws := n }
    have hdraws : d.draws ≤ (storeByte j b { d with
        pixReads := d.pixReads ++ [d.rowaddr + BitVec.ofNat 32 j], draws := n }).draws := by rw [hsl]; exact hn
    simp only [posStep, e]
    split
    · next hlt => exact .goOn hdraws (turns_lt_of_read (by omega))
    · exact .phaseEnd hdraws (by simp [Pos.phasesLeft])

/-- MEASURE in its margin skip (R112). -/
theorem posStep_skip_nearer (op : Op) (race : Bool) (p : Nat) (d : Datapath) :
    TurnNearer (.skip p) d (posStep op race (.skip p) d) := by
  simp only [posStep]
  split
  · next hlt =>
    obtain ⟨n, hn, -, e⟩ := readCell_frame p d
    rcases hr : readCell p d with ⟨_ | _, d'⟩
    · obtain rfl : d' = { d with draws := n } := by rw [← e, hr]
      exact .goOnPhase hn (by simp [Pos.phasesLeft])
    · obtain rfl : d' = { d with draws := n } := by rw [← e, hr]
      exact .goOn hn (turns_lt_of_read (Nat.sub_lt_sub_left hlt (Nat.lt_succ_self _)))
  · exact .goOnPhase (Nat.le_refl _) (by simp [Pos.phasesLeft])

/-- MEASURE in its width count (R112, R113). -/
theorem posStep_count_nearer (op : Op) (race : Bool) (p n : Nat) (d : Datapath) :
    TurnNearer (.count p n) d (posStep op race (.count p n) d) := by
  simp only [posStep]
  split
  · next hlt =>
    obtain ⟨m, hm, -, e⟩ := readCell_frame (p + n) d
    rcases hr : readCell (p + n) d with ⟨_ | _, d'⟩
    · obtain rfl : d' = { d with draws := m } := by rw [← e, hr]
      exact .goOn hm (turns_lt_of_read (Nat.sub_lt_sub_left hlt (Nat.lt_succ_self _)))
    · obtain rfl : d' = { d with draws := m } := by rw [← e, hr]
      exact .phaseEnd hm (by simp [startSampling, Pos.phasesLeft])
  · exact .phaseEnd (Nat.le_refl _) (by simp [startSampling, Pos.phasesLeft])

/-- A step of `Classify` gives no draw back (R115). -/
theorem voteStep_draws {buf bw off : Nat} {v : Vote} {x : Vote ⊕ Colour} (h : voteStep buf bw off v d = (x, d')) :
    d.draws ≤ d'.draws := by
  obtain ⟨o, n, -, hn, e⟩ := voteStep_frame buf bw off v d
  obtain rfl : d' = { d with status := { d.status with oob := o }, draws := n } := by rw [← e, h]
  exact hn

/-- CLASSIFY (R117). -/
theorem posStep_span_nearer (op : Op) (race : Bool) (v : Vote) (d : Datapath) :
    TurnNearer (.span v) d (posStep op race (.span v) d) := by
  rcases h : voteStep d.cursor.toNat d.modw.toNat d.offset.toNat v d with ⟨v' | c, d'⟩
  · obtain ⟨-, hmodw, -⟩ := voteStep_registers h
    simp only [posStep, h]
    exact .goOn (voteStep_draws h) (turns_lt_of_read (by rw [hmodw]; exact voteStep_readsLeft h))
  · have hdraws : d.draws ≤ (endClassify c d').draws := by rw [endClassify_draws]; exact voteStep_draws h
    simp only [posStep, h]
    exact .last hdraws

/-- ASSEMBLE at the end of a module (R126). -/
theorem moduleEnd_nearer (op : Op) (k : Fin 11) (m : Nat) (acc acc' : Code) (c c' : Word) (v : Vote)
    (h : d.draws ≤ d'.draws) : TurnNearer (.sample k m acc c v) d (moduleEnd op k m acc' c' d') := by
  unfold moduleEnd
  split
  · exact .goOn h (turns_lt_of_module (by omega))
  · unfold segmentEnd
    split
    · next k' hk =>
      have hval := nextSegment_val k k' hk
      exact .goOn h (turns_lt_of_segment (by omega))
    · exact .phaseEnd h (by simp [Pos.phasesLeft])

/-- ASSEMBLE (R126). -/
theorem posStep_sample_nearer (op : Op) (race : Bool) (k : Fin 11) (m : Nat) (acc : Code) (c : Word) (v : Vote)
    (d : Datapath) : TurnNearer (.sample k m acc c v) d (posStep op race (.sample k m acc c v) d) := by
  rw [show posStep op race (.sample k m acc c v) d = posStep op false (.sample k m acc c v) d from rfl]
  rcases h : voteStep c.toNat d.modw.toNat d.offset.toNat v d with ⟨v' | x, d'⟩
  · obtain ⟨-, hmodw, -⟩ := voteStep_registers h
    rw [posStep_sample_inl h]
    exact .goOn (voteStep_draws h) (turns_lt_of_read (by rw [hmodw]; exact voteStep_readsLeft h))
  · rw [posStep_sample_inr h]
    exact moduleEnd_nearer op k m acc _ c _ v (voteStep_draws h)

/-- TRANSLATE (R140, R142). -/
theorem posStep_check_nearer (op : Op) (race : Bool) (k : Fin 11) (found : List (Fin 10)) (d : Datapath) :
    TurnNearer (.check k found) d (posStep op race (.check k found) d) := by
  have next (k' : Fin 11) (found' : List (Fin 10)) (hk : nextSegment k = some k') :
      TurnNearer (.check k found) d (d, some (.check k' found')) := by
    have hval := nextSegment_val k k' hk
    exact .goOn (Nat.le_refl _) (turns_lt_of_segment (by omega))
  simp only [posStep]
  split
  · exact .last (Nat.le_refl _)
  · split
    · next k' hk => exact next k' _ hk
    · exact .last (Nat.le_refl _)
  · split
    · next k' hk => exact next k' _ hk
    · exact .last (Nat.le_refl _)

/-- Every turn of the block, in any state, comes nearer to the end of the command (R150, R211). -/
theorem posStep_nearer (op : Op) (race : Bool) (pos : Pos) (d : Datapath) :
    TurnNearer pos d (posStep op race pos d) := by
  cases pos with
  | start => exact startStep_nearer op d
  | byte j => exact posStep_byte_nearer op race j d
  | skip p => exact posStep_skip_nearer op race p d
  | count p n => exact posStep_count_nearer op race p n d
  | span v => exact posStep_span_nearer op race v d
  | sample k m acc c v => exact posStep_sample_nearer op race k m acc c v d
  | check k found => exact posStep_check_nearer op race k found d

/-! ## The machine -/

/-- What is left of a busy period: the acts of the host, and between two of them the turns of the block. -/
def State.busyLeft (s : State) : Nat ×ₗ TurnsLeft :=
  toLex (s.host.length, match s.seq with
    | .idle => turns 0 0 0 0
    | .busy _ pos _ => pos.turnsLeft s.dp)

/-- A busy period with fewer acts of the host to come is shorter, whatever the acts leave behind. -/
theorem busyLeft_lt_of_host {s t : State} (h : t.host.length < s.host.length) : t.busyLeft < s.busyLeft :=
  Prod.Lex.toLex_lt_toLex.2 (.inl h)

/-- A step of the block ends the busy period or shortens it. -/
theorem blockStep_shortens {s : State} {pos : Pos} {hz : Hazard} (hs : s.seq = .busy op pos hz) :
    (blockStep s).seq = .idle ∨ (blockStep s).busyLeft < s.busyLeft := by
  have nearer := (posStep_nearer op hz.pixRace pos s.dp).next
  rcases e : posStep op hz.pixRace pos s.dp with ⟨d, _ | pos'⟩
  · rw [blockStep_last hs e]
    exact .inl rfl
  · rw [e] at nearer
    rw [blockStep_goOn hs e]
    refine .inr (Prod.Lex.toLex_lt_toLex.2 (.inr ⟨rfl, ?_⟩))
    rw [hs]
    exact nearer pos' rfl

/-- An act of the host that reaches EMSD leaves the acts after it (R66). -/
theorem step_lands_host {s t : State} {a : HostAct} {rest : List Turn} (h : hostInWindow s)
    (hh : s.host = ⟨.after 0, a⟩ :: rest) (ht : step s = .next t) : t.host = rest := by
  have goesOn : GoesOn rest (takeTurn s) := by
    rw [takeTurn_lands hh (.inr rfl)]
    exact hostAct_goesOn { s with host := rest } (h ⟨.after 0, a⟩ (by simp [hh]))
  obtain ⟨u, hu, hhost⟩ := goesOn.step
  rw [hu] at ht
  cases ht
  exact hhost

/-- A step in a busy period ends it or shortens it: it is a step of the block, or one of the host's acts. -/
theorem step_shortens {s t : State} {pos : Pos} {hz : Hazard} (h : hostInWindow s) (hs : s.seq = .busy op pos hz)
    (ht : step s = .next t) : t.seq = .idle ∨ t.busyLeft < s.busyLeft := by
  cases hu : undisturbed s with
  | true =>
    rw [step_busy_undisturbed hs hu] at ht
    cases ht
    exact blockStep_shortens hs
  | false =>
    obtain ⟨n, a, rest, hh⟩ : ∃ n a rest, s.host = ⟨.after n, a⟩ :: rest := by
      unfold undisturbed at hu
      split at hu
      · next n a rest hh => exact ⟨n, a, rest, hh⟩
      · cases hu
    cases n with
    | zero => exact .inr (busyLeft_lt_of_host (by rw [step_lands_host h hh ht, hh]; exact Nat.lt_succ_self _))
    | succ n =>
      rw [step_of_state (takeTurn_busy_later hs hh)] at ht
      cases ht
      have hleft : State.busyLeft { s with host := ⟨.after n, a⟩ :: rest } = s.busyLeft := by
        simp only [State.busyLeft, hh, List.length_cons]
      rw [← hleft]
      exact blockStep_shortens (s := { s with host := ⟨.after n, a⟩ :: rest }) hs

/-! ## `finish()` and the flags the host cleared -/

/-- A free bit that was drawn when `n` draws or more had been taken (R15). -/
def DrawnSince (n : Nat) (b : Bool) : Prop := ∃ k, n ≤ k ∧ b = Config.freeBit k

theorem DrawnSince.mono {m n : Nat} {b : Bool} (h : DrawnSince n b) (hle : m ≤ n) : DrawnSince m b := by
  obtain ⟨k, hk, e⟩ := h
  exact ⟨k, Nat.le_trans hle hk, e⟩

/-- Where the condition holds, the value is a draw, and no draw is given back. -/
theorem drawIf_draws (c v : Bool) (d : Datapath) :
    (c = true → DrawnSince d.draws (drawIf c v d).1) ∧ d.draws ≤ (drawIf c v d).2.draws := by
  cases c with
  | true => exact ⟨fun _ => ⟨d.draws, Nat.le_refl _, rfl⟩, Nat.le_succ _⟩
  | false => exact ⟨fun h => absurd h (by decide), Nat.le_refl _⟩

/-- `st` has a draw taken since `n` in each field of `raced` that `finish()` may leave open (R200 (b)). -/
structure RacedFree (raced : Status) (n : Nat) (st : Status) : Prop where
  done   : raced.done = true → DrawnSince n st.done
  oob    : raced.oob = true → DrawnSince n st.oob
  cfgerr : raced.cfgerr = true → DrawnSince n st.cfgerr
  buserr : raced.buserr = true → DrawnSince n st.buserr

theorem RacedFree.mono {raced st : Status} {m n : Nat} (h : RacedFree raced n st) (hle : m ≤ n) :
    RacedFree raced m st :=
  ⟨fun hr => (h.done hr).mono hle, fun hr => (h.oob hr).mono hle, fun hr => (h.cfgerr hr).mono hle,
    fun hr => (h.buserr hr).mono hle⟩

/-- `finish()` draws the fields that the host cleared, one after the other (R150, R200 (b)). -/
theorem finishFlags_racedFree (raced : Status) (d : Datapath) :
    RacedFree raced d.draws (finishFlags raced d).status := by
  simp only [finishFlags]
  obtain ⟨hdone, hn₁⟩ := drawIf_draws raced.done true d
  generalize drawIf raced.done true d = r₁ at hdone hn₁ ⊢
  obtain ⟨hoob, hn₂⟩ := drawIf_draws raced.oob r₁.2.status.oob r₁.2
  generalize drawIf raced.oob r₁.2.status.oob r₁.2 = r₂ at hoob hn₂ ⊢
  obtain ⟨hcfgerr, hn₃⟩ := drawIf_draws raced.cfgerr r₂.2.status.cfgerr r₂.2
  generalize drawIf raced.cfgerr r₂.2.status.cfgerr r₂.2 = r₃ at hcfgerr hn₃ ⊢
  obtain ⟨hbuserr, -⟩ := drawIf_draws raced.buserr r₃.2.status.buserr r₃.2
  exact ⟨hdone, fun hr => (hoob hr).mono hn₁, fun hr => (hcfgerr hr).mono (hn₁.trans hn₂),
    fun hr => (hbuserr hr).mono ((hn₁.trans hn₂).trans hn₃)⟩

/-- A step of the block that ends the command ends it through `finish()`, and gives no draw back (R150). -/
theorem blockStep_finishes {s : State} {pos : Pos} {hz : Hazard} (hs : s.seq = .busy op pos hz)
    (hidle : (blockStep s).seq = .idle) :
    ∃ d, s.dp.draws ≤ d.draws ∧ (blockStep s).dp = finishFlags hz.raced d := by
  have hdraws := (posStep_nearer op hz.pixRace pos s.dp).draws
  rcases e : posStep op hz.pixRace pos s.dp with ⟨d, _ | pos'⟩
  · rw [e] at hdraws
    exact ⟨d, hdraws, by rw [blockStep_last hs e]⟩
  · rw [blockStep_goOn hs e] at hidle
    cases hidle

end Sys2Proof.Machine

namespace Sys2Proof.Proofs

open Sys2Proof.Machine

/-- Settles O60, by induction on the host's acts still to come and, between two of them, on the turns left
(`step_shortens`). -/
theorem everyBusyPeriodEnds : Obligations.EveryBusyPeriodEnds := by
  intro s
  apply (InvImage.wf State.busyLeft wellFounded_lt).induction s
  intro s ih h
  cases hs : s.seq with
  | idle => exact ⟨0, s, Reaches.refl s, hs⟩
  | busy op pos hz =>
    obtain ⟨t, ht, hwindow⟩ := everyStepProgresses.1 s h
    rcases step_shortens h hs ht with hidle | hlt
    · exact ⟨1, t, Reaches.head ht (Reaches.refl t), hidle⟩
    · obtain ⟨n, u, hreach, hidle⟩ := ih t hlt hwindow
      exact ⟨n + 1, u, Reaches.head ht hreach, hidle⟩

/-- Settles O53: the step ends through `finish()`, which draws what the host cleared (`finishFlags_racedFree`). -/
theorem racedFlagIsFree : Obligations.RacedFlagIsFree := by
  intro s op pos hz hs hidle
  obtain ⟨d, hdraws, e⟩ := blockStep_finishes hs hidle
  obtain ⟨done, oob, cfgerr, buserr, n, -, hdone, -, -, -, hfinish⟩ := finishFlags_frame hz.raced d
  have free := (finishFlags_racedFree hz.raced d).mono hdraws
  rw [e]
  exact ⟨fun hr => by rw [hfinish]; exact hdone hr, free.done, free.oob, free.cfgerr, free.buserr⟩

end Sys2Proof.Proofs
end

section
/-! PROOF. `BUSYWR` is a flag that no turn of the block reads or writes: a dropped write and the steps of an
undisturbed machine commute (R152, R200 (a)). -/

namespace Sys2Proof.Machine

/-- `d` after a dropped write (R200 (a)). -/
def withBusywr (d : Datapath) : Datapath := { d with status := { d.status with busywr := true } }

variable {d d₁ : Datapath}

/-! ## Reads -/

/-- The sampler does not see `BUSYWR` (R110). -/
theorem withBusywr_view (d : Datapath) : SameView d (withBusywr d) := ⟨rfl, rfl, fun _ _ => rfl⟩

/-- The read of a cell (R43, R191). -/
theorem readCell_withBusywr {i : Nat} {c : Colour} (h : readCell i d = (c, d₁)) :
    readCell i (withBusywr d) = (c, withBusywr d₁) := by
  rw [readCell_eq] at h ⊢
  cases h
  rfl

/-- The read of a pixel byte (R62). -/
theorem memRead_withBusywr (race : Bool) (a : Word) (d : Datapath) :
    memRead race a (withBusywr d) = ((memRead race a d).1, withBusywr (memRead race a d).2) := by
  rcases memRead_cases race a d with ⟨he, -⟩ | ⟨he, rfl, b, hb, -⟩ | ⟨he, rfl | hb, -⟩
  · simp [memRead, withBusywr, he]
  · simp [memRead, withBusywr, he, hb]
  · simp [memRead, withBusywr, he, drawByte]
  · simp [memRead, withBusywr, he, hb, drawByte]

/-- One step of `Classify` is one read of the sampler (R115). -/
theorem voteStep_alike {d e : Datapath} (h : SameView d e) (buf bw off : Nat) (v : Vote) :
    ReadAlike d e (voteStep buf bw off v d) (voteStep buf bw off v e) := by
  cases v with
  | first =>
    obtain ⟨a, o, n, hd, he⟩ := slRead_alike h buf
    simp only [voteStep, hd, he]
    exact ⟨_, o, n, rfl, rfl⟩
  | far a =>
    obtain ⟨b, o, n, hd, he⟩ := slRead_alike h (farIndex buf bw off)
    simp only [voteStep, hd, he]
    split
    · exact ⟨_, o, n, rfl, rfl⟩
    · split <;> exact ⟨_, o, n, rfl, rfl⟩
  | window k darks lights =>
    obtain ⟨ballot, o, n, hd, he⟩ := voteTurn_alike h buf bw off k darks lights
    simp only [voteStep, hd, he]
    cases ballot with
    | decided c => exact ⟨_, o, n, rfl, rfl⟩
    | counted x y =>
      simp only
      split <;> exact ⟨_, o, n, rfl, rfl⟩

/-- `Classify` does not see `BUSYWR` (R115). -/
theorem voteStep_withBusywr {buf bw off : Nat} {v : Vote} {x : Vote ⊕ Colour}
    (h : voteStep buf bw off v d = (x, d₁)) : voteStep buf bw off v (withBusywr d) = (x, withBusywr d₁) := by
  obtain ⟨y, o, n, hd, hbusy⟩ := voteStep_alike (withBusywr_view d) buf bw off v
  rw [h] at hd
  cases hd
  exact hbusy

/-! ## One turn -/

/-- The cells of a pixel byte (R103). -/
theorem storeByte_withBusywr (j : Nat) (b : Byte) (d : Datapath) :
    storeByte j b (withBusywr d) = withBusywr (storeByte j b d) := by
  refine List.foldl_hom withBusywr fun d t => ?_
  simp only [storeBit, show scanWidth (withBusywr d) = scanWidth d from rfl]
  split <;> rfl

/-- A turn of the byte loop (R103, R162). -/
theorem unpackByte_withBusywr (race : Bool) (j : Nat) (d : Datapath) :
    unpackByte race j (withBusywr d) = mapEnd withBusywr (unpackByte race j d) := by
  simp only [unpackByte, memRead_withBusywr, show (withBusywr d).rowaddr = d.rowaddr from rfl]
  rcases memRead race (d.rowaddr + BitVec.ofNat 32 j) d with ⟨_ | b, d₁⟩
  · rfl
  · exact congrArg Except.ok (storeByte_withBusywr j b d₁)

/-- The configuration checks (R161). -/
theorem startStep_withBusywr (op : Op) (d : Datapath) :
    startStep op (withBusywr d) = Prod.map withBusywr id (startStep op d) := by
  have check (c : Bool) (d' : Datapath) (pos : Pos) :
      (if c then (withBusywr d', some pos) else (bodyEnd (raise .cfgError (withBusywr d)), none)) =
        Prod.map withBusywr id (if c then (d', some pos) else (bodyEnd (raise .cfgError d), none)) := by
    cases c <;> rfl
  cases op with
  | unpack => exact check (imageOk d) (selectRow d) _
  | measure => exact check (widthOk d) d _
  | classify => exact check (widthOk d) d _
  | assemble => exact check (widthOk d) d _
  | translate => rfl
  | run => exact check (imageOk d) (selectRow d) _

/-- ASSEMBLE at the end of a module (R126). -/
theorem moduleEnd_withBusywr (op : Op) (k : Fin 11) (m : Nat) (acc : Code) (c : Word) (d : Datapath) :
    moduleEnd op k m acc c (withBusywr d) = Prod.map withBusywr id (moduleEnd op k m acc c d) := by
  unfold moduleEnd segmentEnd
  split
  · rfl
  · split <;> rfl

/-- A turn of the block neither reads `BUSYWR` nor writes it. -/
theorem posStep_withBusywr (op : Op) (race : Bool) (pos : Pos) (d : Datapath) :
    posStep op race pos (withBusywr d) = Prod.map withBusywr id (posStep op race pos d) := by
  have hwidth : scanWidth (withBusywr d) = scanWidth d := rfl
  have hcursor : (withBusywr d).cursor = d.cursor := rfl
  have hmodw : (withBusywr d).modw = d.modw := rfl
  have hoffset : (withBusywr d).offset = d.offset := rfl
  have hcodes : (withBusywr d).codes = d.codes := rfl
  cases pos with
  | start => exact startStep_withBusywr op d
  | byte j =>
    simp only [posStep, unpackByte_withBusywr]
    cases unpackByte race j d <;> rfl
  | skip p =>
    simp only [posStep, hwidth]
    split
    · rcases h : readCell p d with ⟨_ | _, d₁⟩ <;> rw [readCell_withBusywr h] <;> rfl
    · rfl
  | count p n =>
    simp only [posStep, hwidth]
    split
    · rcases h : readCell (p + n) d with ⟨_ | _, d₁⟩ <;> rw [readCell_withBusywr h] <;> rfl
    · rfl
  | span v =>
    simp only [posStep, hcursor, hmodw, hoffset]
    rcases h : voteStep d.cursor.toNat d.modw.toNat d.offset.toNat v d with ⟨v' | c, d₁⟩ <;>
      rw [voteStep_withBusywr h] <;> rfl
  | sample k m acc c v =>
    rcases h : voteStep c.toNat d.modw.toNat d.offset.toNat v d with ⟨v' | x, d₁⟩
    · exact (posStep_sample_inl (voteStep_withBusywr h)).trans
        (congrArg (Prod.map withBusywr id) (posStep_sample_inl h).symm)
    · refine (posStep_sample_inr (voteStep_withBusywr h)).trans ?_
      rw [show posStep op race (.sample k m acc c v) d = _ from posStep_sample_inr h]
      exact moduleEnd_withBusywr op k m _ _ d₁
  | check k found =>
    simp only [posStep, hcodes]
    cases checkCode k d.codes[k] with
    | fail r => rfl
    | pass => cases nextSegment k <;> rfl
    | digit x => cases nextSegment k <;> rfl

/-! ## The machine -/

/-- A field that `finish()` may leave open (R200 (b)). -/
theorem drawIf_withBusywr (c v : Bool) (d : Datapath) :
    drawIf c v (withBusywr d) = Prod.map id withBusywr (drawIf c v d) := by
  cases c <;> rfl

/-- `finish()` neither reads `BUSYWR` nor writes it (R150). -/
theorem finishFlags_withBusywr (raced : Status) (d : Datapath) :
    finishFlags raced (withBusywr d) = withBusywr (finishFlags raced d) := by
  simp only [finishFlags, drawIf_withBusywr, Prod.map_fst, Prod.map_snd]
  rfl

/-- The step of the block is the same with a dropped write before it or after it (R200 (a)). -/
theorem blockStep_busyWrite (s : State) : blockStep (busyWrite s) = busyWrite (blockStep s) := by
  cases hs : s.seq with
  | idle =>
    have hidle : blockStep s = s := by simp only [blockStep, hs]
    rw [hidle]
    simp only [blockStep, busyWrite_seq, hs]
  | busy op pos hz =>
    have hturn : posStep op hz.pixRace pos (busyWrite s).dp = _ := posStep_withBusywr op hz.pixRace pos s.dp
    rcases e : posStep op hz.pixRace pos s.dp with ⟨d, _ | pos'⟩
    · rw [e] at hturn
      rw [blockStep_last (s := busyWrite s) hs hturn, blockStep_last hs e, finishFlags_withBusywr]
      rfl
    · rw [e] at hturn
      rw [blockStep_goOn (s := busyWrite s) hs hturn, blockStep_goOn hs e]
      rfl

/-- A machine whose host has nothing to do takes the block's steps alone (R19, R193). -/
theorem reaches_iterate_blockStep (n : Nat) {s : State} (hh : s.host = []) : Reaches n s (blockStep^[n] s) := by
  induction n generalizing s with
  | zero => exact Reaches.refl s
  | succ n ih =>
    refine Reaches.head ?_ (ih ((blockStep_frame s).1.trans hh))
    cases hs : s.seq with
    | idle => rw [step_of_state (takeTurn_waits hs hh)]; simp only [blockStep, hs]
    | busy op pos hz => exact step_of_state (takeTurn_busy_nil hs hh)

/-- A run of `n` steps has one end. -/
theorem Reaches.unique {n : Nat} {s t u : State} (h : Reaches n s t) (h' : Reaches n s u) : t = u :=
  Host.Outcome.next.inj (h.symm.trans h')

end Sys2Proof.Machine

namespace Sys2Proof.Proofs

open Sys2Proof.Machine

/-- Settles O49: the steps are the block's, and each commutes with the dropped write (`blockStep_busyWrite`). -/
theorem droppedWriteLeavesCommandAlone : Obligations.DroppedWriteLeavesCommandAlone := by
  intro s t n hh ht
  have commutes : busyWrite (blockStep^[n] s) = blockStep^[n] (busyWrite s) :=
    Function.Semiconj.iterate_right (fun s => (blockStep_busyWrite s).symm) n s
  rw [ht.unique (reaches_iterate_blockStep n hh), commutes]
  exact reaches_iterate_blockStep n hh

end Sys2Proof.Proofs
end

section
/-! PROOF. CfgError: which configurations the check of each command passes, and that a command whose check passes
leaves `CFGERR` as it was (R153, R161). -/

namespace Sys2Proof.Machine

variable {d : Datapath}

/-! ## The configuration check of each command -/

/-- The check at the start of `op`: UNPACK and RUN check the image, the sampler's commands its width, TRANSLATE
nothing (R161). -/
def configOk (op : Op) (d : Datapath) : Bool :=
  match op with
  | .unpack | .run => imageOk d
  | .measure | .classify | .assemble => widthOk d
  | .translate => true

theorem widthOk_iff : widthOk d = true ↔ 1 ≤ d.width.toInt ∧ d.width.toInt ≤ (d.scanMax : Int) := by
  simp only [widthOk, Bool.and_eq_true, decide_eq_true_eq]

theorem imageOk_iff :
    imageOk d = true ↔ 1 ≤ d.width.toInt ∧ d.width.toInt ≤ (d.scanMax : Int) ∧ d.height.toInt ≠ 0 := by
  have hzero : d.height.toInt = 0 ↔ d.height = 0 := BitVec.toInt_inj (y := 0)
  simp only [imageOk, Bool.and_eq_true, widthOk_iff, bne_iff_ne, ne_eq, hzero, and_assoc]

/-- The checks in the words of R161: `WIDTH` for every command but TRANSLATE, `HEIGHT` for UNPACK and RUN. -/
theorem configOk_iff (op : Op) : configOk op d = true ↔
    op = .translate ∨ (1 ≤ d.width.toInt ∧ d.width.toInt ≤ (d.scanMax : Int) ∧
      ((op = .unpack ∨ op = .run) → d.height.toInt ≠ 0)) := by
  cases op <;> simp [configOk, widthOk_iff, imageOk_iff]

/-- Acceptance changes no register that a check reads (R151). -/
theorem configOk_acceptFlags (op : Op) : configOk op (acceptFlags d) = configOk op d := by
  cases op <;> rfl

/-- A command whose check fails only raises CfgError; RUN does in its first phase (R153, R161). -/
theorem body_cfgError {op : Op} (h : configOk op d = false) : op.body d = raise .cfgError d := by
  cases op with
  | unpack => exact unpackBody_cfgError h
  | run => exact body_of_unpackBody_error (.inr rfl) (unpackBody_cfgError h)
  | measure => exact samplerBody_cfgError (.inl rfl) h
  | classify => exact samplerBody_cfgError (.inr (.inl rfl)) h
  | assemble => exact samplerBody_cfgError (.inr (.inr rfl)) h
  | translate => cases h

/-! ## Bodies whose check passes -/

/-- Body `b`, however it ends, leaves `CFGERR` as it finds it at `d`. -/
def KeepsCfgerr (b : Body) (d : Datapath) : Prop := (bodyEnd (b d)).status.cfgerr = d.status.cfgerr

theorem KeepsCfgerr.of_ok {b : Body} {d' : Datapath} (h : b d = .ok d')
    (hcfgerr : d'.status.cfgerr = d.status.cfgerr) : KeepsCfgerr b d := by
  rw [KeepsCfgerr, h]
  exact hcfgerr

/-- One body after another (R153). -/
theorem KeepsCfgerr.bodyThen {a b : Body} (ha : KeepsCfgerr a d) (hb : ∀ d₁, a d = .ok d₁ → KeepsCfgerr b d₁) :
    KeepsCfgerr (bodyThen a b) d := by
  cases e : a d with
  | error d₁ => simpa only [KeepsCfgerr, Machine.bodyThen, e] using ha
  | ok d₁ =>
    have hfirst : d₁.status.cfgerr = d.status.cfgerr := by simpa only [KeepsCfgerr, e, bodyEnd] using ha
    have hsecond : (bodyEnd (b d₁)).status.cfgerr = d₁.status.cfgerr := hb d₁ e
    simpa only [KeepsCfgerr, Machine.bodyThen, e] using hsecond.trans hfirst

/-- UNPACK may still raise BusError, which is another flag (R162). -/
theorem unpackBody_keepsCfgerr (hi : imageOk d = true) : KeepsCfgerr unpackBody d := by
  obtain ⟨sl, reads, n, -, e | e⟩ := unpackLoop_frame (pixelBytes d) 0 (selectRow d) <;>
    simp only [KeepsCfgerr, unpackBody, hi, if_true, e, bodyEnd, selectRow_status]

theorem measureBody_keepsCfgerr (hw : widthOk d = true) : KeepsCfgerr measureBody d := by
  obtain ⟨p, n, k, -, -, -, -, e⟩ := measureBody_reads hw
  exact .of_ok e rfl

theorem classifyBody_keepsCfgerr (hw : widthOk d = true) : KeepsCfgerr classifyBody d := by
  obtain ⟨c, o, n, -, -, -, e⟩ := classifyBody_reads hw
  exact .of_ok e rfl

theorem assembleBody_keepsCfgerr (hw : widthOk d = true) : KeepsCfgerr assembleBody d := by
  obtain ⟨vs, c, o, n, -, e, -⟩ := assembleBody_alike (e := d) ⟨rfl, rfl, fun _ _ => rfl⟩ hw hw rfl rfl rfl
  exact .of_ok e rfl

theorem translateBody_keepsCfgerr (d : Datapath) : KeepsCfgerr translateBody d := by
  obtain ⟨r, ds, e, -⟩ := translateBody_alike (d := d) (e := d) rfl
  exact .of_ok e rfl

/-- RUN: the image check covers the width checks of its later phases (R153). -/
theorem runBody_keepsCfgerr (hi : imageOk d = true) : KeepsCfgerr runBody d := by
  refine (unpackBody_keepsCfgerr hi).bodyThen fun d₁ unpack => ?_
  have hw₁ : widthOk d₁ = true := unpackBody_widthOk hi unpack
  refine (measureBody_keepsCfgerr hw₁).bodyThen fun d₂ measure => ?_
  have hw₂ : widthOk d₂ = true := measureBody_widthOk hw₁ measure
  exact (assembleBody_keepsCfgerr hw₂).bodyThen fun d₃ _ => translateBody_keepsCfgerr d₃

/-- A command whose check passes leaves `CFGERR` alone (R161). -/
theorem body_keepsCfgerr {op : Op} (h : configOk op d = true) : KeepsCfgerr op.body d := by
  cases op with
  | unpack => exact unpackBody_keepsCfgerr h
  | measure => exact measureBody_keepsCfgerr h
  | classify => exact classifyBody_keepsCfgerr h
  | assemble => exact assembleBody_keepsCfgerr h
  | translate => exact translateBody_keepsCfgerr d
  | run => exact runBody_keepsCfgerr h

/-! ## The command words -/

/-- A ready block whose command fails its check sets `CFGERR` and `DONE`, and nothing else (R150, R161). -/
theorem exec_instr_cfgError {s : State} {op : Op} (h : Ready s) (hc : configOk op s.dp = false) :
    exec op.instr s = .next { s with dp := { s.dp with
      pixReads := [], status := { s.dp.status with cfgerr := true, done := true } } } := by
  rw [exec_instr_ready op h, body_cfgError ((configOk_acceptFlags op).trans hc), finishFlags_none, ← h.1]
  rfl

/-- A ready block whose command passes its check ends with `CFGERR` as it was (R150, R161). -/
theorem exec_instr_cfgerr {s t : State} {op : Op} (h : Ready s) (hc : configOk op s.dp = true)
    (ht : exec op.instr s = .next t) : t.dp.status.cfgerr = s.dp.status.cfgerr := by
  rw [exec_instr_ready op h, finishFlags_none] at ht
  cases ht
  exact body_keepsCfgerr ((configOk_acceptFlags op).trans hc)

end Sys2Proof.Machine

namespace Sys2Proof.Proofs

open Sys2Proof.Machine

/-- Settles O32: the configurations it names are those that fail the command's check and those that pass it
(`configOk_iff`). -/
theorem configErrorChangesNothingElse : Obligations.ConfigErrorChangesNothingElse := by
  refine ⟨fun s op h hop hbad => exec_instr_cfgError h ?_,
    fun s t op h hgood => exec_instr_cfgerr h ((configOk_iff op).2 hgood)⟩
  rw [← Bool.not_eq_true, configOk_iff]
  rintro (rfl | ⟨hlo, hhi, hheight⟩)
  · exact hop rfl
  · rcases hbad with hlow | hhigh | ⟨himage, hzero⟩
    · omega
    · omega
    · exact hheight himage hzero

end Sys2Proof.Proofs
end

section
/-! PROOF. RUN does not see what an earlier decode left: UNPACK writes every cell that the later phases read, and each
of them writes every register that the next one reads (R103, R112, R126, R140, R197). -/

namespace Sys2Proof.Machine

variable {d e : Datapath}

/-! ## UNPACK of the same row -/

/-- `d` and `e` agree on what UNPACK's byte loop reads, and on the cells that its first `n` bytes give (R103). -/
structure SameRow (n : Nat) (d e : Datapath) : Prop where
  width   : e.width = d.width
  rowaddr : e.rowaddr = d.rowaddr
  mem     : e.mem = d.mem
  errs    : e.errs = d.errs
  draws   : e.draws = d.draws
  cells   : ∀ x < scanWidth d, x < 8 * n → sparseGet e.sl x = sparseGet d.sl x

/-- The port's traces are not part of it, and the draws may go on alike. -/
theorem SameRow.issued {n : Nat} (h : SameRow n d e) (reads reads' : List Word) (k : Nat) :
    SameRow n { d with pixReads := reads, draws := k } { e with pixReads := reads', draws := k } :=
  ⟨h.width, h.rowaddr, h.mem, h.errs, rfl, h.cells⟩

/-- `MemRead` gives the same byte, or the same error response (R62). -/
theorem memRead_alike {n : Nat} (h : SameRow n d e) (a : Word) : ∃ b k,
    memRead false a d = (b, { d with pixReads := d.pixReads ++ [a], draws := k }) ∧
    memRead false a e = (b, { e with pixReads := e.pixReads ++ [a], draws := k }) := by
  rcases memRead_cases false a d with ⟨he, hd⟩ | ⟨he, -, b, hb, hd⟩ | ⟨he, hb, hd⟩
  · exact ⟨none, d.draws, hd, by simp [memRead, h.errs, he, ← h.draws]⟩
  · exact ⟨some b, d.draws, hd, by rw [memRead_written (h.errs ▸ he) (h.mem ▸ hb), ← h.draws]⟩
  · have hnone : sparseGet d.mem a.toNat = none := hb.resolve_left (by decide)
    exact ⟨_, d.draws + 1, hd, by simp [memRead, h.errs, he, h.mem, hnone, drawByte, h.draws]⟩

/-- The same byte stored in both (R103). -/
theorem SameRow.storeByte {j : Nat} (h : SameRow j d e) (b : Byte) :
    SameRow (j + 1) (storeByte j b d) (storeByte j b e) := by
  have cells (x : Nat) (hx : x < scanWidth d) (hlt : x < 8 * (j + 1)) :
      sparseGet (Machine.storeByte j b e).sl x = sparseGet (Machine.storeByte j b d).sl x := by
    have hwidth : scanWidth e = scanWidth d := by rw [scanWidth, scanWidth, h.width]
    rw [storeByte_get, storeByte_get, hwidth]
    split
    · rfl
    · exact h.cells x hx (by omega)
  obtain ⟨sl, hd⟩ := storeByte_frame j b d
  obtain ⟨sl', he⟩ := storeByte_frame j b e
  rw [hd, he] at cells ⊢
  exact ⟨h.width, h.rowaddr, h.mem, h.errs, h.draws, cells⟩

/-- One turn of the byte loop (R103). -/
theorem unpackByte_alike {j : Nat} {d₁ : Datapath} (h : SameRow j d e) (hd : unpackByte false j d = .ok d₁) :
    ∃ e₁, unpackByte false j e = .ok e₁ ∧ SameRow (j + 1) d₁ e₁ := by
  obtain ⟨b, k, read, read'⟩ := memRead_alike h (d.rowaddr + BitVec.ofNat 32 j)
  rw [← h.rowaddr] at read'
  cases b with
  | none =>
    simp only [unpackByte, read] at hd
    cases hd
  | some b =>
    simp only [unpackByte, read, Except.ok.injEq] at hd
    subst hd
    simp only [unpackByte, read']
    exact ⟨_, rfl, (h.issued _ _ k).storeByte b⟩

/-- The byte loop (R71, R103). -/
theorem unpackLoop_alike : ∀ (rem j : Nat) {d e d₁ : Datapath}, SameRow j d e → unpackLoop rem j d = .ok d₁ →
    ∃ e₁, unpackLoop rem j e = .ok e₁ ∧ SameRow (j + rem) d₁ e₁
  | 0, _, _, e, _, h, hd => by cases hd; exact ⟨e, rfl, h⟩
  | rem + 1, j, d, e, d₁, h, hd => by
    cases byte : unpackByte false j d with
    | error d' => simp only [unpackLoop, byte] at hd; cases hd
    | ok d' =>
      simp only [unpackLoop, byte] at hd
      obtain ⟨e', byte', h'⟩ := unpackByte_alike h byte
      obtain ⟨e₁, loop, h₁⟩ := unpackLoop_alike rem (j + 1) h' hd
      exact ⟨e₁, by simp only [unpackLoop, byte', loop], by rwa [Nat.add_right_comm, Nat.add_assoc] at h₁⟩

/-- A byte loop that completes writes the cells, the port's trace and the draw counter at most (R103). -/
theorem eq_of_unpackLoop {rem j : Nat} {d₁ : Datapath} (h : unpackLoop rem j d = .ok d₁) :
    ∃ sl reads n, d₁ = { d with sl := sl, pixReads := reads, draws := n } := by
  obtain ⟨sl, reads, n, -, frame | frame⟩ := unpackLoop_frame rem j d
  · exact ⟨sl, reads, n, Except.ok.inj (h.symm.trans frame)⟩
  · cases h.symm.trans frame

/-- `d` and `e` agree on the configuration, pixel memory, the platform and the next draw: all that a decode starts
from (R197). -/
structure SameConfig (d e : Datapath) : Prop where
  width   : e.width = d.width
  height  : e.height = d.height
  pixbase : e.pixbase = d.pixbase
  offset  : e.offset = d.offset
  capPred : e.capPred = d.capPred
  mem     : e.mem = d.mem
  errs    : e.errs = d.errs
  draws   : e.draws = d.draws

/-- `d` and `e` agree on all that UNPACK leaves for RUN's later phases and for the host (R103). -/
structure SameUnpacked (d e : Datapath) : Prop where
  view    : SameView d e
  offset  : e.offset = d.offset
  capPred : e.capPred = d.capPred
  rowsel  : e.rowsel = d.rowsel
  rowaddr : e.rowaddr = d.rowaddr

theorem SameConfig.selectRow (h : SameConfig d e) :
    (selectRow e).rowsel = (selectRow d).rowsel ∧ SameRow 0 (selectRow d) (selectRow e) := by
  have hrow : logicalRow e = logicalRow d := by rw [logicalRow, logicalRow, h.height]
  have haddr : rowAddress e = rowAddress d := by
    simp only [rowAddress, storedRow, logicalRow, stride, scanWidth, h.width, h.height, h.pixbase]
  exact ⟨congrArg (BitVec.ofNat 32) hrow, h.width, haddr, h.mem, h.errs, h.draws, fun x _ hx => by omega⟩

/-- UNPACK (R103). -/
theorem unpackBody_alike (h : SameConfig d e) {d₁ : Datapath} (hi : imageOk d = true)
    (hd : unpackBody d = .ok d₁) : ∃ e₁, unpackBody e = .ok e₁ ∧ SameUnpacked d₁ e₁ ∧ d₁.width = d.width := by
  have hi' : imageOk e = true := by
    simpa only [imageOk_iff, Datapath.scanMax, h.width, h.height, h.capPred] using hi
  have hbytes : pixelBytes e = pixelBytes d := by simp only [pixelBytes, scanWidth, h.width]
  obtain ⟨hrowsel, hrow⟩ := h.selectRow
  simp only [unpackBody, hi, hi', if_true, hbytes] at hd ⊢
  obtain ⟨e₁, loop, hend⟩ := unpackLoop_alike _ 0 hrow hd
  obtain ⟨_, _, _, rfl⟩ := eq_of_unpackLoop hd
  obtain ⟨_, _, _, rfl⟩ := eq_of_unpackLoop loop
  have hcover : scanWidth d ≤ 8 * (0 + pixelBytes d) := by
    rw [Nat.zero_add]
    exact scanWidth_le_pixelBytes d
  have cells := fun x (hx : x < scanWidth d) => hend.cells x hx (Nat.lt_of_lt_of_le hx hcover)
  exact ⟨_, loop, ⟨⟨h.width, hend.draws, cells⟩, h.offset, h.capPred, hrowsel, hend.rowaddr⟩, rfl⟩

/-! ## The later phases on the same row -/

/-- A code that is stored does not depend on what stood in its register (R42). -/
theorem storeCodes_getElem_eq (j : Fin 11) : ∀ (vs : List (Fin 11 × Code)) (cs cs' : Vector Code 11),
    (j ∈ vs.map Prod.fst ∨ cs[j] = cs'[j]) → (storeCodes vs cs)[j] = (storeCodes vs cs')[j]
  | [], _, _, h => h.resolve_left (by simp)
  | (k, v) :: vs, cs, cs', h => by
    refine storeCodes_getElem_eq j vs (cs.set k v) (cs'.set k v) ?_
    by_cases hk : k = j
    · subst hk; exact .inr (by simp)
    · have hne : k.val ≠ j.val := fun hval => hk (Fin.ext hval)
      simpa [Vector.getElem_set_ne _ _ hne, Ne.symm hk] using h

/-- ASSEMBLE stores every code, and so leaves none of those before it (R126). -/
theorem storeCodes_segments {vs : List (Fin 11 × Code)} (h : vs.map Prod.fst = segments) (cs cs' : Vector Code 11) :
    storeCodes vs cs = storeCodes vs cs' := by
  have hall : ∀ j : Fin 11, j ∈ segments := by decide
  exact Vector.ext fun i hi => storeCodes_getElem_eq ⟨i, hi⟩ vs cs cs' (.inl (h ▸ hall _))

/-- `d` and `e` agree on what a decode gives the host, the cells below `w` among it (R197). -/
structure SameOutcome (w : Nat) (d e : Datapath) : Prop where
  rowsel  : e.rowsel = d.rowsel
  rowaddr : e.rowaddr = d.rowaddr
  cursor  : e.cursor = d.cursor
  modw    : e.modw = d.modw
  nobar   : e.status.nobar = d.status.nobar
  codes   : e.codes = d.codes
  result  : e.result = d.result
  digits  : e.digits = d.digits
  cells   : ∀ x < w, sparseGet e.sl x = sparseGet d.sl x

/-- MEASURE, ASSEMBLE and TRANSLATE one after another (R153). -/
theorem laterPhases_alike (h : SameUnpacked d e) (hw : widthOk d = true) : ∃ d₂ d₃ d₄ e₂ e₃ e₄,
    LaterPhases d d₂ d₃ d₄ ∧ LaterPhases e e₂ e₃ e₄ ∧ SameOutcome (scanWidth d) d₄ e₄ := by
  have hw' : widthOk e = true := by
    simpa only [widthOk_iff, Datapath.scanMax, h.view.width, h.capPred] using hw
  obtain ⟨p, n, k, measure, measure'⟩ := measureBody_alike h.view hw hw'
  have view₂ : SameView (measured p n k d) (measured p n k e) := ⟨h.view.width, rfl, h.view.cells⟩
  obtain ⟨vs, c, o, m, hvs, assemble, assemble'⟩ := assembleBody_alike view₂ hw hw' rfl rfl h.offset
  have hcodes : (assembled vs c o m (measured p n k e)).codes = (assembled vs c o m (measured p n k d)).codes :=
    storeCodes_segments hvs _ _
  obtain ⟨r, ds, translate, translate'⟩ := translateBody_alike hcodes
  exact ⟨_, _, _, _, _, _, ⟨measure, assemble, translate⟩, ⟨measure', assemble', translate'⟩,
    ⟨h.rowsel, h.rowaddr, rfl, rfl, rfl, hcodes, rfl, rfl, h.view.cells⟩⟩

/-- RUN, where its UNPACK completes (R153, R197). -/
theorem runBody_alike (h : SameConfig d e) {d₁ : Datapath} (hi : imageOk d = true) (unpack : unpackBody d = .ok d₁) :
    ∃ d' e', runBody d = .ok d' ∧ runBody e = .ok e' ∧ SameOutcome (scanWidth d) d' e' := by
  obtain ⟨e₁, unpack', h₁, hwidth⟩ := unpackBody_alike h hi unpack
  obtain ⟨_, _, d₄, _, _, e₄, phases, phases', hout⟩ := laterPhases_alike h₁ (unpackBody_widthOk hi unpack)
  rw [scanWidth, hwidth, ← scanWidth] at hout
  exact ⟨d₄, e₄, phases.run unpack, phases'.run unpack', hout⟩

end Sys2Proof.Machine

namespace Sys2Proof.Proofs

open Sys2Proof.Machine

/-- Settles O31: the two bodies start from the same configuration, and RUN's outcome follows from it alone
(`runBody_alike`). -/
theorem runForgetsEarlierDecodes : Obligations.RunForgetsEarlierDecodes := by
  intro s s' t t' h h' hi hrow hwidth hheight hpixbase hoffset hcap hmem herrs hdraws ht ht'
  have config : SameConfig (acceptFlags s.dp) (acceptFlags s'.dp) :=
    ⟨hwidth, hheight, hpixbase, hoffset, hcap, hmem, herrs, hdraws⟩
  obtain ⟨_, _, _, -, unpack⟩ := unpackBody_readable (d := acceptFlags s.dp) hi hrow
  obtain ⟨d, d', body, body', out⟩ := runBody_alike config hi unpack
  cases ht.symm.trans (exec_instr_of_body (op := .run) h body)
  cases ht'.symm.trans (exec_instr_of_body (op := .run) h' body')
  exact ⟨out.rowsel, out.rowaddr, out.cursor, out.modw, out.nobar, out.codes, out.result, out.digits, out.cells⟩

end Sys2Proof.Proofs
end

section
/-! PROOF. The reset values of the registers, the reset input in a busy period, and the writes that a busy period drops
(R190, R194, R200). -/

namespace Sys2Proof.Machine

/-! ## Reset -/

/-- Power-on leaves what the reset input leaves (R190). -/
theorem reset_eq_resetInput : State.reset = resetInput State.reset := rfl

/-- The reset input is SOFTRESET's effect and an unspecified scanline (R155, R191). -/
theorem resetInput_eq_withSl (d : Datapath) : d.resetInput = withSl [] d.resetRegisters := rfl

/-- What a register outside the scanline window reads does not depend on the scanline (R24). -/
theorem readReg_withSl {r : Reg} (hr : ∀ i, r ≠ .sl i) (busy : Bool) (sl : Scanline) (d : Datapath) :
    (readReg busy r (withSl sl d)).1 = (readReg busy r d).1 := by
  cases r with
  | sl i => exact absurd rfl (hr i)
  | _ => rfl

/-- `STATUS` of an idle block reads 0 after reset (R190). -/
theorem statusWord_reset : statusWord false {} = 0 := by decide

/-- Every code register reads 0 after reset (R190). -/
theorem readReg_code_resetInput (k : Fin 11) (d : Datapath) : (readReg false (.code k) d.resetInput).1 = 0 := by
  simp [readReg]

/-! ## Dropped writes -/

/-- Of the aligned offsets, `STATUS` stands at 0x00C alone (R24). -/
theorem eq_of_regAt_status {scanMax : Nat} {off : BitVec 23} (halign : off.toNat % 4 = 0)
    (h : regAt scanMax off = .status) : off = 0x00C := by
  simp only [regAt] at h
  split at h
  · split at h <;> cases h
  · split at h
    · split at h <;> cases h
    · split at h
      case h_4 hword =>
        have hoff : off.toNat = 12 := by omega
        exact BitVec.eq_of_toNat_eq hoff
      all_goals cases h

end Sys2Proof.Machine

namespace Sys2Proof.Proofs

open Sys2Proof.Machine

/-- Settles O6: power-on is a reset input, whose values are read off one by one; SOFTRESET's differ in the scanline
alone (`readReg_withSl`). -/
theorem resetRegisterValues : Obligations.ResetRegisterValues := by
  refine ⟨fun s hs => ?_, fun s hs => ⟨_, exec_softreset_idle hs, hs, rfl, rfl, fun r hr => ?_⟩⟩
  · obtain ⟨s', rfl⟩ : ∃ s', s = resetInput s' := hs.elim (fun h => ⟨_, h.trans reset_eq_resetInput⟩) id
    exact ⟨rfl, rfl, rfl, rfl, rfl, statusWord_reset, rfl, rfl, rfl, rfl, rfl, rfl, rfl, rfl, rfl, rfl,
      scanMax_word_toNat s'.dp.resetInput, fun k => readReg_code_resetInput k s'.dp, fun _ => rfl⟩
  · rw [resetInput_state_dp, resetInput_eq_withSl]
    exact (readReg_withSl hr false [] s.dp.resetRegisters).symm

/-- Settles O7: the act lands, and the reset input's next state does not depend on the sequencer. -/
theorem resetInputAbandonsCommand : Obligations.ResetInputAbandonsCommand :=
  fun _ _ _ hh hland => step_lands hh hland rfl

/-- Settles O48: at no other aligned offset stands `STATUS` (`eq_of_regAt_status`), so that the write is dropped. -/
theorem busyWriteIsDropped : Obligations.BusyWriteIsDropped :=
  fun _ _ _ _ _ _ _ hs hh halign hne => step_busy_write hs halign (fun h => hne (eq_of_regAt_status halign h)) hh

end Sys2Proof.Proofs
end
